-- ==== Sys2Proof/Word.lean ====
section
/-! DEFINITION. The two widths of the block: a byte (every operand, register and expander byte, R9) and a request word (R70). -/

namespace Sys2Proof

/-- A byte, 8 bits, unsigned (R9). -/
abbrev Byte := BitVec 8

/-- One word at the request port, 32 bits (R70). -/
abbrev Word := BitVec 32

end Sys2Proof
end

