-- ==== Sys2Proof/Machine/Constants.lean ====
section
/-! DEFINITION. The numeric constants of the spec: expander bit masks (R79), display command codes (R81), flag bits (R82),
wait bounds in microseconds (R5). Masks, codes and flags are the spec's own decisions D8 to D10, from general knowledge
(93_implementation_defined.md K1 to K4; log 7). -/

namespace Sys2Proof.Machine

/-- Register select (R79). -/
def maskRS : Byte := 0x01#8
/-- Read/write, always 0 (R79). -/
def maskRW : Byte := 0x02#8
/-- Enable (R79). -/
def maskEN : Byte := 0x04#8
/-- Backlight (R79). -/
def maskBL : Byte := 0x08#8

def lcdClearDisplay : Byte := 0x01#8
def lcdReturnHome : Byte := 0x02#8
def lcdEntryModeSet : Byte := 0x04#8
def lcdDisplayControl : Byte := 0x08#8
def lcdCursorShift : Byte := 0x10#8
def lcdFunctionSet : Byte := 0x20#8
def lcdSetCgramAddr : Byte := 0x40#8
def lcdSetDdramAddr : Byte := 0x80#8

def lcdDisplayOn : Byte := 0x04#8
def lcdCursorOn : Byte := 0x02#8
def lcdBlinkOn : Byte := 0x01#8
def lcdEntryLeft : Byte := 0x02#8
def lcdEntryShiftIncrement : Byte := 0x01#8
def lcdDisplayMove : Byte := 0x08#8
def lcdMoveRight : Byte := 0x04#8
def lcdMoveLeft : Byte := 0x00#8
def lcd2Line : Byte := 0x08#8
def lcd5x10Dots : Byte := 0x04#8

/-- The nibble bytes of `BEGIN` states 2 and 3 (R133, R134). -/
def initNibble : Byte := 0x30#8
def commitNibble : Byte := 0x20#8

def tEnSetup : Nat := 1
def tEnHigh : Nat := 1
def tCmdSettle : Nat := 40
def tPower : Nat := 50000
def tInit1 : Nat := 4500
def tInit2 : Nat := 4500
def tInit3 : Nat := 150
def tClear : Nat := 2000
def tHome : Nat := 2000

end Sys2Proof.Machine
end

