-- ==== Sys2Proof/Machine/Flags.lean ====
section
/-! DEFINITION. The flag bits of the two accumulated control bytes (R25, R26, R82). The block has no status flags (R31). -/

namespace Sys2Proof.Machine

/-- `reg | m` (R10). -/
def setFlag (reg m : Byte) : Byte := reg ||| m

/-- `reg & ~m` (R10). -/
def clearFlag (reg m : Byte) : Byte := reg &&& ~~~m

/-- `displayFunction` as `BEGIN` forms it (R131): the two-line flag when `rows > 1`, the 5x10 flag when `dotsize != 0` and
`rows == 1`, never the 8-bit flag. -/
def functionFlags (rows dotsize : Byte) : Byte :=
  (if 1#8 < rows then lcd2Line else 0x00#8) |||
    (if dotsize ≠ 0#8 ∧ rows = 1#8 then lcd5x10Dots else 0x00#8)

end Sys2Proof.Machine
end

