-- ==== Sys2Proof/Config.lean ====
section
/-! DEFINITION. What an implementation fixes and the one value the spec leaves open. Neither has a body: no proof can see
what it is. The numeric constants the spec does give are in Machine/Constants.lean. -/

namespace Sys2Proof

/-- `I2C_ADDR`, the 7-bit bus address, fixed when the block is built (R4, R21; the spec gives no value: log 1). -/
opaque Config.i2cAddr : BitVec 7

/-- FREE VALUE: the table byte `LOCATE` and `CHAR` use for an operand row when the register `rows` is 0, where `rows - 1`
is not defined (R9, R201). No run reaches such a state with `begun = 1` (R34); log 5. -/
opaque Config.rowBaseOfNoRows : Byte → Byte

end Sys2Proof
end

