-- ==== Sys2Proof/Syntax.lean ====
section
/-! DEFINITION. The requests of the block: one constructor per row of spec/opcode_table.json, with the operands the rule
of the request names (R72, R73, R87). Fields a format does not use are no part of a request (R77). -/

namespace Sys2Proof

/-- The eight rows of a glyph, `charmap[0..7]` (R74, R183), in index order. -/
structure Glyph where
  row0 : Byte
  row1 : Byte
  row2 : Byte
  row3 : Byte
  row4 : Byte
  row5 : Byte
  row6 : Byte
  row7 : Byte
  deriving DecidableEq, Repr

/-- The rows as the list they are sent in (R52, R183). -/
def Glyph.rows (g : Glyph) : List Byte :=
  [g.row0, g.row1, g.row2, g.row3, g.row4, g.row5, g.row6, g.row7]

/-- A request (R72). The 14 variants of `DISPLAY` have a constructor each (R73). -/
inductive Instr where
  /-- `BEGIN columns, rows, dotsize` (R130). -/
  | begin (columns rows dotsize : Byte)
  /-- `CLS` (R180). -/
  | cls
  /-- `HOME` (R181). -/
  | home
  /-- `LOCATE column, row` (R182). -/
  | locate (column row : Byte)
  /-- `DISPLAY DISPLAY_ON` (R151). -/
  | displayOn
  /-- `DISPLAY DISPLAY_OFF` (R152). -/
  | displayOff
  /-- `DISPLAY CURSOR_ON` (R153). -/
  | cursorOn
  /-- `DISPLAY CURSOR_OFF` (R154). -/
  | cursorOff
  /-- `DISPLAY BLINK_ON` (R155). -/
  | blinkOn
  /-- `DISPLAY BLINK_OFF` (R156). -/
  | blinkOff
  /-- `DISPLAY SCROLL_LEFT` (R157). -/
  | scrollLeft
  /-- `DISPLAY SCROLL_RIGHT` (R158). -/
  | scrollRight
  /-- `DISPLAY LEFT_TO_RIGHT` (R159). -/
  | leftToRight
  /-- `DISPLAY RIGHT_TO_LEFT` (R160). -/
  | rightToLeft
  /-- `DISPLAY AUTOSCROLL_ON` (R161). -/
  | autoscrollOn
  /-- `DISPLAY AUTOSCROLL_OFF` (R162). -/
  | autoscrollOff
  /-- `DISPLAY BACKLIGHT_ON` (R163). -/
  | backlightOn
  /-- `DISPLAY BACKLIGHT_OFF` (R164). -/
  | backlightOff
  /-- `CREATE location, charmap[0..7]` (R183). -/
  | create (location : Byte) (charmap : Glyph)
  /-- `CHAR column, row, c` (R184). -/
  | char (column row c : Byte)
  /-- `WRITE value` (R123). -/
  | write (value : Byte)
  deriving DecidableEq, Repr

end Sys2Proof
end

