-- ==== Sys2Proof/Machine/State.lean ====
section
/-! DEFINITION. The state of the block: its registers (R20), the sequencer position (R29), the output stream, the responses
and the refusal mark (R9, R78, R201), and what the host does next. Plain data throughout. -/

namespace Sys2Proof.Machine

/-- An event of the output stream (R2, R80). -/
inductive Event where
  /-- `W(b)`: one write transaction of the byte `b` to the bus address (R51, R86). -/
  | busWrite (addr : BitVec 7) (b : Byte)
  /-- `D(t)`: a wait of at least `t` microseconds (R5, R9). -/
  | wait (us : Nat)
  deriving DecidableEq, Repr

/-- The row-offset table, four entries (R23). -/
structure RowTable where
  entry0 : Byte
  entry1 : Byte
  entry2 : Byte
  entry3 : Byte
  deriving DecidableEq, Repr

/-- The registers of R20, but for `phase`. -/
structure Regs where
  /-- R21. -/
  i2cAddr : BitVec 7
  /-- R22. -/
  columns : Byte
  /-- R22. -/
  rows : Byte
  /-- R22. -/
  dotsize : Byte
  /-- R24. -/
  displayFunction : Byte
  /-- R25. -/
  displayControl : Byte
  /-- R26. -/
  displayMode : Byte
  /-- R27; true is 1, on. -/
  backlight : Bool
  /-- R23. -/
  rowOffset : RowTable
  /-- R28. -/
  begun : Bool
  deriving DecidableEq, Repr

/-- `reg <- v` and `rowOffset[i] <- v` (R9), for the registers a request writes (R35). -/
inductive RegWrite where
  | columns (v : Byte)
  | rows (v : Byte)
  | dotsize (v : Byte)
  | displayFunction (v : Byte)
  | displayControl (v : Byte)
  | displayMode (v : Byte)
  | backlight (on : Bool)
  | rowOffset (i : Fin 4) (v : Byte)
  | begun
  deriving DecidableEq, Repr

/-- One line of a rule's pseudocode once its calls are expanded (R9): a register write, an `expanderWrite` (R100), or
`emit D(t)`. -/
inductive Micro where
  | setReg (w : RegWrite)
  | expanderWrite (data : Byte)
  | delay (us : Nat)
  deriving DecidableEq, Repr

/-- The sequencer position (R29). -/
inductive Phase where
  /-- No request in progress; one can be accepted. -/
  | idle
  /-- A request in progress: the index of its next event, what is left of it, and the count it will respond (log 6). -/
  | busy (next : Nat) (rest : List Micro) (count : Byte)
  deriving DecidableEq, Repr

/-- The reasons of a refusal (R201). -/
inductive RefusalReason where
  /-- Code 1: the head word is reserved (R76). -/
  | illegalRequest
  /-- Code 2: a request other than `BEGIN` while `begun = 0`. -/
  | notBegun
  /-- Code 3: `BEGIN` with `rows = 0`. -/
  | badGeometry
  deriving DecidableEq, Repr

/-- One refusal as the mark records it: the reason and the head word (R201). -/
structure RefusalMark where
  reason : RefusalReason
  headWord : Word
  deriving DecidableEq, Repr

/-- What the host does to the block, in order (R2, R220, R221, R226). -/
inductive HostInput where
  /-- It presents one word at the request port (R70, R240). -/
  | word (w : Word)
  /-- It asserts reset once the block is idle (R220). -/
  | reset
  /-- It asserts reset while event `k` of the request before it is in progress (R221). -/
  | resetDuring (k : Nat)
  deriving DecidableEq, Repr

structure State where
  /-- The registers (R20). -/
  regs : Regs
  /-- The sequencer position (R20, R29). -/
  phase : Phase
  /-- What the host does next (the model's own field: log 2). -/
  input : List HostInput
  /-- The head word of the request last taken (port `req_word`, R240; log 3). -/
  reqWord : Word
  /-- The output stream so far, oldest first (R9, R57). -/
  trace : List Event
  /-- The responses given so far, oldest first (R78). -/
  responses : List Byte
  /-- The mark that refusals happened, oldest first (R201). -/
  refusals : List RefusalMark
  deriving DecidableEq, Repr

/-- The block raises no exception (R200): there is no fault, so none can be raised (safe: the spec gives every request an
outcome). -/
inductive Fault where
  deriving DecidableEq, Repr

/-- Reasons a step has no meaning. The refusals of R201 are no such reasons: the spec gives their outcome, a next state with
the mark (log 4). -/
inductive Refusal where
  /-- Raised by an arm of `exec` without a meaning; every arm has one, so no step raises it (safe). -/
  | notModelled (mnemonic : String)
  deriving DecidableEq, Repr

/-- The register values of R30. -/
def Regs.reset : Regs where
  i2cAddr := Config.i2cAddr
  columns := 0
  rows := 0
  dotsize := 0
  displayFunction := 0
  displayControl := 0
  displayMode := 0
  backlight := false
  rowOffset := ⟨0, 0, 0, 0⟩
  begun := false

/-- The block right after reset (R30, R220): idle, nothing emitted, waiting for a request. -/
def State.reset : State where
  regs := Regs.reset
  phase := .idle
  input := []
  reqWord := 0
  trace := []
  responses := []
  refusals := []

end Sys2Proof.Machine
end

