-- ==== Sys2Proof/Machine/Ops.lean ====
section
/-! DEFINITION. The named operations over registers and the output stream: `reg <- v`, `emit`, running a request to its end
or by one event, `refuse`, the admission check, and reset. -/

namespace Sys2Proof.Machine

/-- `rowOffset[i]` (R9). -/
def RowTable.read (t : RowTable) (i : Fin 4) : Byte :=
  match i with
  | 0 => t.entry0
  | 1 => t.entry1
  | 2 => t.entry2
  | 3 => t.entry3

/-- `rowOffset[i] <- v` (R9). -/
def RowTable.store (t : RowTable) (i : Fin 4) (v : Byte) : RowTable :=
  match i with
  | 0 => { t with entry0 := v }
  | 1 => { t with entry1 := v }
  | 2 => { t with entry2 := v }
  | 3 => { t with entry3 := v }

/-- `reg <- v` (R9). -/
def Regs.store (r : Regs) : RegWrite → Regs
  | .columns v => { r with columns := v }
  | .rows v => { r with rows := v }
  | .dotsize v => { r with dotsize := v }
  | .displayFunction v => { r with displayFunction := v }
  | .displayControl v => { r with displayControl := v }
  | .displayMode v => { r with displayMode := v }
  | .backlight on => { r with backlight := on }
  | .rowOffset i v => { r with rowOffset := r.rowOffset.store i v }
  | .begun => { r with begun := true }

/-- `BL if backlight == 1 else 0x00` (R100). -/
def Regs.backlightMask (r : Regs) : Byte := if r.backlight then maskBL else 0x00#8

/-- `emit e` (R9). -/
def State.emit (s : State) (e : Event) : State := { s with trace := s.trace ++ [e] }

/-- One line of a request's pseudocode. `expanderWrite(data)` reads `backlight` and `i2cAddr` at the write (R100). -/
def State.perform (s : State) : Micro → State
  | .setReg w => { s with regs := s.regs.store w }
  | .expanderWrite data => s.emit (.busWrite s.regs.i2cAddr (data ||| s.regs.backlightMask))
  | .delay us => s.emit (.wait us)

/-- Lines in order (R57). -/
def State.performAll (s : State) : List Micro → State
  | [] => s
  | m :: ms => (s.perform m).performAll ms

/-- Whether a line emits an event. -/
def Micro.emits : Micro → Bool
  | .setReg _ => false
  | .expanderWrite _ => true
  | .delay _ => true

/-- A request is taken: its next event is event 0 (R29). -/
def State.accept (s : State) (program : List Micro) (count : Byte) : State :=
  { s with phase := .busy 0 program count }

/-- The end of a request: the block is idle and gives the response (R11, R29, R78). -/
def State.finish (s : State) (count : Byte) : State :=
  { s with phase := .idle, responses := s.responses ++ [count] }

/-- After an event: the phase is the index of the next one, or the request ends if there is none left (R29). -/
def State.afterEvent (s : State) (next : Nat) (rest : List Micro) (count : Byte) : State :=
  if rest.any Micro.emits then { s with phase := .busy next rest count }
  else (s.performAll rest).finish count

/-- The lines up to and with the next event. -/
def State.nextEvent (s : State) (next : Nat) (count : Byte) : List Micro → State
  | [] => s.finish count
  | m :: ms =>
    if m.emits then (s.perform m).afterEvent (next + 1) ms count
    else (s.perform m).nextEvent next count ms

/-- A request in progress goes on by one event (R29); an idle block does nothing. -/
def State.tick (s : State) : State :=
  match s.phase with
  | .idle => s
  | .busy next rest count => s.nextEvent next count rest

/-- A request in progress runs to completion (R203, R225). -/
def State.runToEnd (s : State) : State :=
  match s.phase with
  | .idle => s
  | .busy _ rest count => (s.performAll rest).finish count

/-- A whole request as one atomic step, which R29 and R203 allow (log 6). -/
def State.runRequest (s : State) (program : List Micro) (count : Byte) : State :=
  (s.accept program count).runToEnd

/-- `refuse <Reason>` (R9, R201, R205): no event, no register written, `count = 0`, the mark with the head word, and the block
is idle and goes on. -/
def State.refuse (s : State) (reason : RefusalReason) : State :=
  { s with
    phase := .idle
    responses := s.responses ++ [0x00#8]
    refusals := s.refusals ++ [⟨reason, s.reqWord⟩] }

/-- The admission check of every request but `BEGIN`: `if begun == 0: refuse NotBegun` (R28, R201). -/
def State.whenBegun (s : State) (program : List Micro) (count : Byte) : Host.Outcome State Fault Refusal :=
  if s.regs.begun then .next (s.runRequest program count) else .next (s.refuse .notBegun)

/-- Reset (R220): every register at its value of R30, the block idle, no event. What was emitted, answered and marked stays,
and `rest` is what the host does next (log 3). -/
def State.takeReset (s : State) (rest : List HostInput) : State :=
  { s with regs := Regs.reset, phase := .idle, reqWord := 0, input := rest }

/-- The events of `t` that `s` had not yet emitted. -/
def State.eventsSince (s t : State) : List Event := t.trace.drop s.trace.length

/-- Reset inside a request (R221): `s` took a request that would end in `t`. If the host asserts reset while event `k` is in
progress and more events follow it, the trace stops after event `k` and the registers return to their reset values. A
reset at the last event, or one that names no event of this request, lands after the request has ended (log 8). -/
def State.underReset (s t : State) : State :=
  match t.input with
  | .resetDuring k :: rest =>
    if k + 1 < (s.eventsSince t).length then
      ({ s with trace := s.trace ++ (s.eventsSince t).take (k + 1) }).takeReset rest
    else t
  | _ => t

/-- `underReset` on the outcome of a request. -/
def State.settle (s : State) : Host.Outcome State Fault Refusal → Host.Outcome State Fault Refusal
  | .next t => .next (s.underReset t)
  | .fault f => .fault f
  | .refused r => .refused r

end Sys2Proof.Machine
end

