-- ==== Sys2Proof/Machine/Operands.lean ====
section
/-! DEFINITION. What a request makes of its operands: the row clamp and the DDRAM address of `LOCATE` (R182), the CGRAM
address of `CREATE` (R183). Other operands are used as they stand (R87). -/

namespace Sys2Proof.Machine

/-- The two clamps of R182, in its order: to the last index of the table, then to the last physical row. -/
def clampRow (row rows : Byte) : Byte :=
  let row := if 4#8 ≤ row then 3#8 else row
  if rows ≤ row then rows - 1#8 else row

/-- A clamped row as an index of the table. -/
def tableIndex (row : Byte) : Fin 4 :=
  match row.toNat with
  | 0 => 0
  | 1 => 1
  | 2 => 2
  | _ => 3

/-- `rowOffset[row]` after the clamps (R182). With `rows = 0` there is no last row and the byte is a free value (log 5). -/
def Regs.rowBase (r : Regs) (row : Byte) : Byte :=
  if r.rows = 0#8 then Config.rowBaseOfNoRows row
  else r.rowOffset.read (tableIndex (clampRow row r.rows))

/-- The set-DDRAM-address command of a cell: `0x80 | (column + rowOffset[row])`, the sum modulo 256, `column` not clamped
(R182). -/
def Regs.ddramCommand (r : Regs) (column row : Byte) : Byte :=
  lcdSetDdramAddr ||| (column + r.rowBase row)

/-- The set-CGRAM-address command of a slot: `0x40 | ((location & 0x07) << 3)` (R183). -/
def cgramCommand (location : Byte) : Byte :=
  lcdSetCgramAddr ||| ((location &&& 0x07#8) <<< 3)

end Sys2Proof.Machine
end

