-- ==== Sys2Proof/Machine/MicroOps.lean ====
section
/-! DEFINITION. The micro-operations (files 40 to 42) and the operations of the public surface that other requests call
(`display`, `cls`, `home`, `locate`: R136, R137, R139, R184), each as the lines it expands to (R9 `call`, R206). -/

namespace Sys2Proof.Machine

/-- R110. -/
def pulseEnable (value : Byte) : List Micro :=
  [.expanderWrite (value &&& ~~~maskEN), .delay tEnSetup,
   .expanderWrite (value ||| maskEN), .delay tEnHigh,
   .expanderWrite (value &&& ~~~maskEN), .delay tCmdSettle]

/-- R111. -/
def write4bits (value : Byte) : List Micro :=
  .expanderWrite value :: pulseEnable value

/-- R120: high nibble first. -/
def send (value mode : Byte) : List Micro :=
  write4bits ((value &&& 0xF0#8) ||| mode) ++ write4bits (((value <<< 4) &&& 0xF0#8) ||| mode)

/-- R121. -/
def command (value : Byte) : List Micro := send value 0x00#8

/-- The lines of `write(value)` (R122). -/
def writeData (value : Byte) : List Micro := send value maskRS

/-- What `write(value)` returns (R122). -/
def writeCount : Byte := 1#8

/-- `displayControl <- v; command(0x08 | displayControl)` (R151 to R156). -/
def sendDisplayControl (v : Byte) : List Micro :=
  .setReg (.displayControl v) :: command (lcdDisplayControl ||| v)

/-- `displayMode <- v; command(0x04 | displayMode)` (R138, R159 to R162). -/
def sendEntryMode (v : Byte) : List Micro :=
  .setReg (.displayMode v) :: command (lcdEntryModeSet ||| v)

/-- `backlight <- v; expanderWrite(0x00)` (R163, R164). -/
def refreshBacklight (on : Bool) : List Micro :=
  [.setReg (.backlight on), .expanderWrite 0x00#8]

/-- `display(DISPLAY_ON)` with `displayControl = v` (R136, R151). -/
def displayOnLines (v : Byte) : List Micro := sendDisplayControl (setFlag v lcdDisplayOn)

/-- `cls()` (R180). -/
def clsLines : List Micro := command lcdClearDisplay ++ [.delay tClear]

/-- `home()` (R181). -/
def homeLines : List Micro := command lcdReturnHome ++ [.delay tHome]

/-- `locate(column, row)` (R182). -/
def Regs.locateLines (r : Regs) (column row : Byte) : List Micro := command (r.ddramCommand column row)

end Sys2Proof.Machine
end

