-- ==== Sys2Proof/Machine/BringUp.lean ====
section
/-! DEFINITION. The request `BEGIN` (43_init.md): the register set-up and the eight states. -/

namespace Sys2Proof.Machine

/-- The register set-up, before state 1 (R131). -/
def setupRegisters (columns rows dotsize : Byte) : List Micro :=
  [.setReg (.columns columns), .setReg (.rows rows), .setReg (.dotsize dotsize),
   .setReg (.displayFunction (functionFlags rows dotsize)),
   .setReg (.rowOffset 0 0x00#8), .setReg (.rowOffset 1 0x40#8),
   .setReg (.rowOffset 2 columns), .setReg (.rowOffset 3 (0x40#8 + columns))]

/-- State 1 (R132). -/
def powerWait : List Micro := [.delay tPower]

/-- State 2 (R133). -/
def forceInterface : List Micro :=
  write4bits initNibble ++ [.delay tInit1] ++ (write4bits initNibble ++ [.delay tInit2]) ++
    (write4bits initNibble ++ [.delay tInit3])

/-- State 3 (R134). -/
def commitInterface : List Micro := write4bits commitNibble

/-- State 4 (R135). -/
def functionSet (displayFunction : Byte) : List Micro := command (lcdFunctionSet ||| displayFunction)

/-- State 5 (R136): `displayControl <- 0x04`, then `display(DISPLAY_ON)`. -/
def initDisplayControl : List Micro :=
  .setReg (.displayControl lcdDisplayOn) :: displayOnLines lcdDisplayOn

/-- State 7 (R138). -/
def initEntryMode : List Micro := sendEntryMode lcdEntryLeft

/-- The whole request (R140). -/
def beginLines (columns rows dotsize : Byte) : List Micro :=
  setupRegisters columns rows dotsize ++ powerWait ++ forceInterface ++ commitInterface ++
    functionSet (functionFlags rows dotsize) ++ initDisplayControl ++ clsLines ++ initEntryMode ++
    homeLines ++ [.setReg .begun]

/-- `BEGIN columns, rows, dotsize` (R130, R140): never refused for `begun`, refused `BadGeometry` for `rows = 0`. -/
def execBegin (columns rows dotsize : Byte) (s : State) : Host.Outcome State Fault Refusal :=
  if rows = 0#8 then .next (s.refuse .badGeometry)
  else .next (s.runRequest (beginLines columns rows dotsize) 0x00#8)

end Sys2Proof.Machine
end

