-- ==== Sys2Proof/Machine/Content.lean ====
section
/-! DEFINITION. The requests `CLS`, `HOME`, `LOCATE`, `CREATE`, `CHAR` (45_addressing_content.md) and `WRITE`
(42_dispatcher.md R123). Each is refused while `begun = 0`. -/

namespace Sys2Proof.Machine

/-- R180. -/
def execCls (s : State) : Host.Outcome State Fault Refusal := s.whenBegun clsLines 0x00#8

/-- R181. -/
def execHome (s : State) : Host.Outcome State Fault Refusal := s.whenBegun homeLines 0x00#8

/-- R182. -/
def execLocate (column row : Byte) (s : State) : Host.Outcome State Fault Refusal :=
  s.whenBegun (s.regs.locateLines column row) 0x00#8

/-- `for i in 0, ..., 7: write(charmap[i])` (R183). -/
def glyphLines (charmap : Glyph) : List Micro := charmap.rows.flatMap writeData

/-- R183; the counts of the eight `write` are dropped. -/
def execCreate (location : Byte) (charmap : Glyph) (s : State) : Host.Outcome State Fault Refusal :=
  s.whenBegun (command (cgramCommand location) ++ glyphLines charmap) 0x00#8

/-- R184; the count of `write` is dropped. -/
def execChar (column row c : Byte) (s : State) : Host.Outcome State Fault Refusal :=
  s.whenBegun (s.regs.locateLines column row ++ writeData c) 0x00#8

/-- R123: it responds the count `write` returns. -/
def execWrite (value : Byte) (s : State) : Host.Outcome State Fault Refusal :=
  s.whenBegun (writeData value) writeCount

end Sys2Proof.Machine
end

