-- ==== Sys2Proof/Machine/Display.lean ====
section
/-! DEFINITION. The request `DISPLAY`, its 14 variants (44_mode_toggles.md). Each is refused while `begun = 0` and responds 0
(R150). -/

namespace Sys2Proof.Machine

/-- R151. -/
def execDisplayOn (s : State) : Host.Outcome State Fault Refusal :=
  s.whenBegun (displayOnLines s.regs.displayControl) 0x00#8

/-- R152. -/
def execDisplayOff (s : State) : Host.Outcome State Fault Refusal :=
  s.whenBegun (sendDisplayControl (clearFlag s.regs.displayControl lcdDisplayOn)) 0x00#8

/-- R153. -/
def execCursorOn (s : State) : Host.Outcome State Fault Refusal :=
  s.whenBegun (sendDisplayControl (setFlag s.regs.displayControl lcdCursorOn)) 0x00#8

/-- R154. -/
def execCursorOff (s : State) : Host.Outcome State Fault Refusal :=
  s.whenBegun (sendDisplayControl (clearFlag s.regs.displayControl lcdCursorOn)) 0x00#8

/-- R155. -/
def execBlinkOn (s : State) : Host.Outcome State Fault Refusal :=
  s.whenBegun (sendDisplayControl (setFlag s.regs.displayControl lcdBlinkOn)) 0x00#8

/-- R156. -/
def execBlinkOff (s : State) : Host.Outcome State Fault Refusal :=
  s.whenBegun (sendDisplayControl (clearFlag s.regs.displayControl lcdBlinkOn)) 0x00#8

/-- R157. -/
def execScrollLeft (s : State) : Host.Outcome State Fault Refusal :=
  s.whenBegun (command (lcdCursorShift ||| lcdDisplayMove ||| lcdMoveLeft)) 0x00#8

/-- R158. -/
def execScrollRight (s : State) : Host.Outcome State Fault Refusal :=
  s.whenBegun (command (lcdCursorShift ||| lcdDisplayMove ||| lcdMoveRight)) 0x00#8

/-- R159. -/
def execLeftToRight (s : State) : Host.Outcome State Fault Refusal :=
  s.whenBegun (sendEntryMode (setFlag s.regs.displayMode lcdEntryLeft)) 0x00#8

/-- R160. -/
def execRightToLeft (s : State) : Host.Outcome State Fault Refusal :=
  s.whenBegun (sendEntryMode (clearFlag s.regs.displayMode lcdEntryLeft)) 0x00#8

/-- R161. -/
def execAutoscrollOn (s : State) : Host.Outcome State Fault Refusal :=
  s.whenBegun (sendEntryMode (setFlag s.regs.displayMode lcdEntryShiftIncrement)) 0x00#8

/-- R162. -/
def execAutoscrollOff (s : State) : Host.Outcome State Fault Refusal :=
  s.whenBegun (sendEntryMode (clearFlag s.regs.displayMode lcdEntryShiftIncrement)) 0x00#8

/-- R163. -/
def execBacklightOn (s : State) : Host.Outcome State Fault Refusal :=
  s.whenBegun (refreshBacklight true) 0x00#8

/-- R164. -/
def execBacklightOff (s : State) : Host.Outcome State Fault Refusal :=
  s.whenBegun (refreshBacklight false) 0x00#8

end Sys2Proof.Machine
end

