-- ==== Sys2Proof/Machine/Dispatch.lean ====
section
/-! DEFINITION. The dispatch: one arm per request, each one call of its meaning. -/

namespace Sys2Proof.Machine

def exec (i : Instr) (s : State) : Host.Outcome State Fault Refusal :=
  match i with
  | .begin columns rows dotsize => Sys2Proof.Machine.execBegin columns rows dotsize s
  | .cls => Sys2Proof.Machine.execCls s
  | .home => Sys2Proof.Machine.execHome s
  | .locate column row => Sys2Proof.Machine.execLocate column row s
  | .displayOn => Sys2Proof.Machine.execDisplayOn s
  | .displayOff => Sys2Proof.Machine.execDisplayOff s
  | .cursorOn => Sys2Proof.Machine.execCursorOn s
  | .cursorOff => Sys2Proof.Machine.execCursorOff s
  | .blinkOn => Sys2Proof.Machine.execBlinkOn s
  | .blinkOff => Sys2Proof.Machine.execBlinkOff s
  | .scrollLeft => Sys2Proof.Machine.execScrollLeft s
  | .scrollRight => Sys2Proof.Machine.execScrollRight s
  | .leftToRight => Sys2Proof.Machine.execLeftToRight s
  | .rightToLeft => Sys2Proof.Machine.execRightToLeft s
  | .autoscrollOn => Sys2Proof.Machine.execAutoscrollOn s
  | .autoscrollOff => Sys2Proof.Machine.execAutoscrollOff s
  | .backlightOn => Sys2Proof.Machine.execBacklightOn s
  | .backlightOff => Sys2Proof.Machine.execBacklightOff s
  | .create location charmap => Sys2Proof.Machine.execCreate location charmap s
  | .char column row c => Sys2Proof.Machine.execChar column row c s
  | .write value => Sys2Proof.Machine.execWrite value s

end Sys2Proof.Machine
end

