-- ==== Sys2Proof/Decode.lean ====
section
/-! DEFINITION. The decoder of the request port (R70 to R77, R85, R87, R88), total on any list of words, and after it the
encoder, written from the same tables. -/

namespace Sys2Proof

/-- Why the words at the port are no request (yet). -/
inductive DecodeError where
  /-- There is no word. -/
  | noWord
  /-- A `CREATE` head word whose extension words have not both been presented (R85, R240). -/
  | awaitExtension
  /-- `op` is `0x00` or `0x09` to `0xFF` (R76). -/
  | reservedOpcode
  /-- `op = 0x05` with `a` from 14 to 255 (R76). -/
  | reservedMode
  deriving DecidableEq, Repr

/-- The field `op` of a head word, and the first byte of an extension word (R70, R74). -/
def Word.op (w : Word) : Byte := w.extractLsb' 24 8
/-- The field `a` (R70). -/
def Word.a (w : Word) : Byte := w.extractLsb' 16 8
/-- The field `b` (R70). -/
def Word.b (w : Word) : Byte := w.extractLsb' 8 8
/-- The field `c` (R70). -/
def Word.c (w : Word) : Byte := w.extractLsb' 0 8

/-- The variant of `DISPLAY` numbered `a` (R73); `none` for 14 to 255 (R76). -/
def displayVariant (a : Byte) : Option Instr :=
  match a.toNat with
  | 0 => some .displayOn
  | 1 => some .displayOff
  | 2 => some .cursorOn
  | 3 => some .cursorOff
  | 4 => some .blinkOn
  | 5 => some .blinkOff
  | 6 => some .scrollLeft
  | 7 => some .scrollRight
  | 8 => some .leftToRight
  | 9 => some .rightToLeft
  | 10 => some .autoscrollOn
  | 11 => some .autoscrollOff
  | 12 => some .backlightOn
  | 13 => some .backlightOff
  | _ => none

/-- The glyph two extension words carry: rows in index order, the first in the most significant byte (R74). -/
def glyphOfWords (x0 x1 : Word) : Glyph :=
  ⟨Word.op x0, Word.a x0, Word.b x0, Word.c x0, Word.op x1, Word.a x1, Word.b x1, Word.c x1⟩

/-- `CREATE` with its two extension words (R85). -/
def decodeCreate (location : Byte) : List Word → Except DecodeError (Instr × List Word)
  | x0 :: x1 :: rest => .ok (.create location (glyphOfWords x0 x1), rest)
  | _ => .error .awaitExtension

/-- The decoder (R88): the request the words begin with and the words after it. -/
def decode : List Word → Except DecodeError (Instr × List Word)
  | [] => .error .noWord
  | w :: rest =>
    match (Word.op w).toNat with
    | 1 => .ok (.begin (Word.a w) (Word.b w) (Word.c w), rest)
    | 2 => .ok (.cls, rest)
    | 3 => .ok (.home, rest)
    | 4 => .ok (.locate (Word.a w) (Word.b w), rest)
    | 5 =>
      match displayVariant (Word.a w) with
      | some i => .ok (i, rest)
      | none => .error .reservedMode
    | 6 => decodeCreate (Word.a w) rest
    | 7 => .ok (.char (Word.a w) (Word.b w) (Word.c w), rest)
    | 8 => .ok (.write (Word.a w), rest)
    | _ => .error .reservedOpcode

/-- How many words a request has, told from `op` of its head word alone (R85). -/
def requestLength (op : Byte) : Nat := if op = 0x06#8 then 3 else 1

/-- A word of four bytes, the first the most significant (R70, R74). -/
def wordOf (op a b c : Byte) : Word := op ++ a ++ b ++ c

/-- The head word of `DISPLAY mode` (R73, R150). -/
def displayWord (mode : Byte) : List Word := [wordOf 0x05#8 mode 0#8 0#8]

/-- The words of a request (R72 to R74); a field the format does not use is written 0 (R77). -/
def encode : Instr → List Word
  | .begin columns rows dotsize => [wordOf 0x01#8 columns rows dotsize]
  | .cls => [wordOf 0x02#8 0#8 0#8 0#8]
  | .home => [wordOf 0x03#8 0#8 0#8 0#8]
  | .locate column row => [wordOf 0x04#8 column row 0#8]
  | .displayOn => displayWord 0#8
  | .displayOff => displayWord 1#8
  | .cursorOn => displayWord 2#8
  | .cursorOff => displayWord 3#8
  | .blinkOn => displayWord 4#8
  | .blinkOff => displayWord 5#8
  | .scrollLeft => displayWord 6#8
  | .scrollRight => displayWord 7#8
  | .leftToRight => displayWord 8#8
  | .rightToLeft => displayWord 9#8
  | .autoscrollOn => displayWord 10#8
  | .autoscrollOff => displayWord 11#8
  | .backlightOn => displayWord 12#8
  | .backlightOff => displayWord 13#8
  | .create location g =>
    [wordOf 0x06#8 location 0#8 0#8, wordOf g.row0 g.row1 g.row2 g.row3,
      wordOf g.row4 g.row5 g.row6 g.row7]
  | .char column row c => [wordOf 0x07#8 column row c]
  | .write value => [wordOf 0x08#8 value 0#8 0#8]

/-- The words of one request given as one number whose low 32 bits are the head word, bits 63:32 the first extension word
and bits 95:64 the second; bits from `nbits` up are 0. As many words as the head word's `op` tells (R85). -/
def tableWords (nbits w : Nat) : List Word :=
  let v := w % 2 ^ nbits
  let head : Word := BitVec.ofNat 32 v
  [head, BitVec.ofNat 32 (v / 2 ^ 32), BitVec.ofNat 32 (v / 2 ^ 64)].take (requestLength (Word.op head))

/-- What the decoder reads from the request whose bits are `w`, numbered as the opcode table numbers them. -/
def decodeTableWord (nbits w : Nat) : Option Instr :=
  match decode (tableWords nbits w) with
  | .ok (i, _) => some i
  | .error _ => none

end Sys2Proof
end

