-- ==== Sys2Proof/Machine/Fetch.lean ====
section
/-! DEFINITION. Taking the next request from the request port (R70, R85, R88, R226), or what the block does when there is
none to take: it waits (R220), drops a reserved word (R76), takes a reset (R220), goes on with a request in progress (R29). -/

namespace Sys2Proof.Machine

/-- What the block finds at the port: a request to run, or a state it has already gone to. -/
inductive Fetched where
  | settled (s : State)
  | request (i : Instr) (s : State)
  deriving DecidableEq, Repr

/-- The words the host presents before it does anything else. -/
def portWords : List HostInput → List Word
  | .word w :: rest => w :: portWords rest
  | _ => []

/-- What the host does once it has presented those words. -/
def afterWords : List HostInput → List HostInput
  | .word _ :: rest => afterWords rest
  | l => l

/-- The block takes the first `n` words of the port; the first is the head word. -/
def State.take (s : State) (n : Nat) : State :=
  { s with reqWord := (portWords s.input).headD 0, input := s.input.drop n }

/-- A `CREATE` lacks an extension word: the block waits for it, unless the host asserts reset first (log 8). -/
def State.awaitWords (s : State) : State :=
  match afterWords s.input with
  | [] => s
  | _ :: rest => s.takeReset rest

/-- An idle block looks at the words of the port. A reserved head word is one word long (R76). -/
def State.fetchIdle (s : State) : Fetched :=
  match decode (portWords s.input) with
  | .ok (i, rest) => .request i (s.take ((portWords s.input).length - rest.length))
  | .error .noWord => .settled s
  | .error .awaitExtension => .settled s.awaitWords
  | .error .reservedOpcode => .settled ((s.take 1).refuse .illegalRequest)
  | .error .reservedMode => .settled ((s.take 1).refuse .illegalRequest)

/-- A busy block accepts no word (R226): it goes on by one event, or takes the reset the host asserted during the event that
has just ended (R221). -/
def State.fetchBusy (s : State) (next : Nat) : State :=
  match s.input with
  | .resetDuring k :: rest => if k < next then s.takeReset rest else s.tick
  | _ => s.tick

/-- What the block does next. -/
def State.fetch (s : State) : Fetched :=
  match s.phase with
  | .busy next _ _ => .settled (s.fetchBusy next)
  | .idle =>
    match s.input with
    | .reset :: rest => .settled (s.takeReset rest)
    | .resetDuring _ :: rest => .settled (s.takeReset rest)
    | _ => s.fetchIdle

end Sys2Proof.Machine
end

