-- ==== Sys2Proof/Machine/Step.lean ====
section
/-! DEFINITION. One step of the block: a whole request (R29, R57), or what it does when it has none to run. -/

namespace Sys2Proof.Machine

/-- Fetch, run, and cut the request short where the host asserts reset inside it (R221). -/
def step (s : State) : Host.Outcome State Fault Refusal :=
  match s.fetch with
  | .settled t => .next t
  | .request i t => t.settle (exec i t)

/-- `s` with the request whose bits are `w` as the next one at the port, the block idle (log 2). -/
def State.withFetchWord (s : State) (nbits w : Nat) : State :=
  { s with phase := .idle, input := (tableWords nbits w).map .word ++ s.input }

end Sys2Proof.Machine
end

