-- ==== Sys2Proof/Machine/Pseudo.lean ====
section
/-! DEFINITION. The host-side spellings of R83 and pseudo-operations of R84. The block never sees them: it is given the
requests they expand to. -/

namespace Sys2Proof.Machine

/-- The dot-size operand as the assembler writes it (R75, R83). -/
inductive DotSize where
  | dots5x8
  | dots5x10
  | number (n : Byte)
  deriving DecidableEq, Repr

/-- `5x8` is 0, `5x10` is 4 (R75, R83). -/
def DotSize.byte : DotSize → Byte
  | .dots5x8 => 0x00#8
  | .dots5x10 => 0x04#8
  | .number n => n

/-- `BEGIN` with its trailing operands left out: the defaults 16, 2, 5x8 (R7, R83). -/
def assembleBegin (columns rows : Option Byte) (dotsize : Option DotSize) : Instr :=
  .begin (columns.getD 16#8) (rows.getD 2#8) (dotsize.getD .dots5x8).byte

/-- `BACKLIGHT on|off` (R84). -/
def assembleBacklight (on : Bool) : Instr := if on then .backlightOn else .backlightOff

/-- `PRINT "s"`: the first `min(n, columns)` bytes, one `WRITE` each; `columns` is the value last given to `BEGIN` (R84). -/
def assemblePrint (columns : Byte) (text : List Byte) : List Instr :=
  (text.take columns.toNat).map .write

/-- The mnemonic of a request and its operands in the order the assembler writes them (R83). -/
def assemblerForm : Instr → String × List Byte
  | .begin columns rows dotsize => ("BEGIN", [columns, rows, dotsize])
  | .cls => ("CLS", [])
  | .home => ("HOME", [])
  | .locate column row => ("LOCATE", [column, row])
  | .displayOn => ("DISPLAY DISPLAY_ON", [])
  | .displayOff => ("DISPLAY DISPLAY_OFF", [])
  | .cursorOn => ("DISPLAY CURSOR_ON", [])
  | .cursorOff => ("DISPLAY CURSOR_OFF", [])
  | .blinkOn => ("DISPLAY BLINK_ON", [])
  | .blinkOff => ("DISPLAY BLINK_OFF", [])
  | .scrollLeft => ("DISPLAY SCROLL_LEFT", [])
  | .scrollRight => ("DISPLAY SCROLL_RIGHT", [])
  | .leftToRight => ("DISPLAY LEFT_TO_RIGHT", [])
  | .rightToLeft => ("DISPLAY RIGHT_TO_LEFT", [])
  | .autoscrollOn => ("DISPLAY AUTOSCROLL_ON", [])
  | .autoscrollOff => ("DISPLAY AUTOSCROLL_OFF", [])
  | .backlightOn => ("DISPLAY BACKLIGHT_ON", [])
  | .backlightOff => ("DISPLAY BACKLIGHT_OFF", [])
  | .create location charmap => ("CREATE", location :: charmap.rows)
  | .char column row c => ("CHAR", [column, row, c])
  | .write value => ("WRITE", [value])

end Sys2Proof.Machine
end

