-- ==== Sys2Proof/Machine/Observe.lean ====
section
/-! DEFINITION. What stands outside the block sees of its output stream: the line levels (R32), the latched nibbles (R114), the
bytes the display puts together from them (R52, R120), the counts and the minimum time (R236). The block reads none of it. -/

namespace Sys2Proof.Machine

/-- The bytes of the `W` events, in order. -/
def busBytes : List Event → List Byte
  | [] => []
  | .busWrite _ b :: es => b :: busBytes es
  | .wait _ :: es => busBytes es

/-- The arguments of the `D` events, in order. -/
def waits : List Event → List Nat
  | [] => []
  | .busWrite _ _ :: es => waits es
  | .wait us :: es => us :: waits es

/-- The expander's eight output lines after a trace: the last byte written, none if there is none yet (R32). -/
def expanderLines (es : List Event) : Option Byte := (busBytes es).getLast?

/-- The EN line of a byte (R79). -/
def enable (b : Byte) : Bool := b &&& maskEN != 0#8

/-- The RS line of a byte (R79). -/
def registerSelect (b : Byte) : Bool := b &&& maskRS != 0#8

/-- What the display latches at falling edges of EN: RS and the payload nibble of the byte that had EN = 1 (R114). -/
def latchedOf : List Byte → List (Bool × BitVec 4)
  | x :: y :: bs =>
    (if enable x && !enable y then [(registerSelect x, x.extractLsb' 4 4)] else []) ++ latchedOf (y :: bs)
  | _ => []

/-- The latched nibbles of a trace (R114). -/
def latched (es : List Event) : List (Bool × BitVec 4) := latchedOf (busBytes es)

/-- Nibbles put together two by two, the first the high one (R52): RS and the byte. -/
def pairNibbles : List (Bool × BitVec 4) → List (Bool × Byte)
  | (rs, hi) :: (_, lo) :: ns => (rs, hi ++ lo) :: pairNibbles ns
  | _ => []

/-- The commands (RS = 0) and data bytes (RS = 1) a trace sends a display whose next nibble is a high one (R32). -/
def sentBytes (es : List Event) : List (Bool × Byte) := pairNibbles (latched es)

/-- The sum of the `D` arguments: the minimum time in microseconds (R236). -/
def minimumTime (es : List Event) : Nat := (waits es).sum

/-- `req_ready`: the block can take a word (R226, R240). -/
def State.ready (s : State) : Bool := s.phase == .idle

end Sys2Proof.Machine
end

