-- ==== Sys2Proof/Safety.lean ====
section
/-! DEFINITION. The terms claims are stated in: runs without a refusal (R201), the register invariants (R34), the events the
block may emit (R5, R51, R102), and the traces of the micro-operations as formulas (R110, R111, R120). -/

namespace Sys2Proof.Machine

/-- No request of the run so far was refused (R201: nothing may be claimed of a run that holds a refusal). -/
def State.unrefused (s : State) : Bool := s.refusals.isEmpty

/-- The register values R34 names, with `begun = 1`. -/
def Regs.broughtUp (r : Regs) : Prop :=
  r.begun = true ∧ 1 ≤ r.rows.toNat ∧
    (r.displayFunction = 0x00#8 ∨ r.displayFunction = 0x04#8 ∨ r.displayFunction = 0x08#8) ∧
    r.displayControl.toNat ≤ 7 ∧ r.displayMode.toNat ≤ 3 ∧
    r.rowOffset = ⟨0x00#8, 0x40#8, r.columns, 0x40#8 + r.columns⟩

/-- Before a completed `BEGIN` every register has its reset value; after it R34 holds; the bus address never changes (R21). -/
def Regs.sound (r : Regs) : Prop :=
  r.i2cAddr = Config.i2cAddr ∧ (r = Regs.reset ∨ r.broughtUp)

/-- An event of this block: a write to the bus address with RW = 0 (R51, R102), or one of the waits of R5. -/
def Event.sound : Event → Prop
  | .busWrite addr b => addr = Config.i2cAddr ∧ b &&& maskRW = 0#8
  | .wait us => us ∈ [1, 40, 50000, 4500, 150, 2000]

/-- The invariant of the block between requests. -/
def State.sound (s : State) : Prop :=
  s.phase = .idle ∧ s.regs.sound ∧ ∀ e ∈ s.trace, e.sound

/-- `W(b)` of a block with these registers, `b` as given. -/
def Regs.writeEvent (r : Regs) (b : Byte) : Event := .busWrite r.i2cAddr b

/-- The trace of `pulseEnable(value)` (R110). -/
def Regs.pulseTrace (r : Regs) (value : Byte) : List Event :=
  let low := (value &&& 0xFB#8) ||| r.backlightMask
  let high := (value ||| 0x04#8) ||| r.backlightMask
  [r.writeEvent low, .wait 1, r.writeEvent high, .wait 1, r.writeEvent low, .wait 40]

/-- The trace of `write4bits(value)` (R111). -/
def Regs.nibbleTrace (r : Regs) (value : Byte) : List Event :=
  r.writeEvent (value ||| r.backlightMask) :: r.pulseTrace value

/-- The trace of `send(value, mode)` as R120 writes it, `h` and `l` for its high and low nibble byte. -/
def Regs.sendTrace (r : Regs) (value mode : Byte) : List Event :=
  let h := (value &&& 0xF0#8) ||| mode ||| r.backlightMask
  let l := ((value <<< 4) &&& 0xF0#8) ||| mode ||| r.backlightMask
  [r.writeEvent h, r.writeEvent h, .wait 1, r.writeEvent (h ||| 0x04#8), .wait 1, r.writeEvent h, .wait 40,
   r.writeEvent l, r.writeEvent l, .wait 1, r.writeEvent (l ||| 0x04#8), .wait 1, r.writeEvent l, .wait 40]

/-- The trace of `command(value)` (R121). -/
def Regs.commandTrace (r : Regs) (value : Byte) : List Event := r.sendTrace value 0x00#8

/-- The trace of `write(value)` (R122). -/
def Regs.dataTrace (r : Regs) (value : Byte) : List Event := r.sendTrace value 0x01#8

/-- A completed request: these registers, these events appended, this response given, the block idle (R11, R29, R78). -/
def State.completed (s : State) (regs : Regs) (events : List Event) (count : Byte) : State :=
  { s with regs := regs, phase := .idle, trace := s.trace ++ events, responses := s.responses ++ [count] }

/-- The variants of `DISPLAY` in the order R73 numbers them, 0 to 13. -/
def displayVariants : List Instr :=
  [.displayOn, .displayOff, .cursorOn, .cursorOff, .blinkOn, .blinkOff, .scrollLeft, .scrollRight, .leftToRight,
   .rightToLeft, .autoscrollOn, .autoscrollOff, .backlightOn, .backlightOff]

/-- A reserved head word (R76). -/
def reservedWord (w : Word) : Prop :=
  Word.op w = 0x00#8 ∨ 0x09#8 ≤ Word.op w ∨ (Word.op w = 0x05#8 ∧ 14#8 ≤ Word.a w)

/-- The operand fields `a`, `b`, `c` the format of an opcode uses (R71). -/
def usedFields (op : Byte) : Bool × Bool × Bool :=
  if op = 0x01#8 ∨ op = 0x07#8 then (true, true, true)
  else if op = 0x04#8 then (true, true, false)
  else if op = 0x05#8 ∨ op = 0x06#8 ∨ op = 0x08#8 then (true, false, false)
  else (false, false, false)

/-- Whether the host presents something else next than a reset inside the request before it. -/
def runsUndisturbed (later : List HostInput) : Prop := ∀ k rest, later ≠ .resetDuring k :: rest

/-- Whether a request is executed: `BEGIN` when `rows` is not 0, any other when `begun = 1` (R201). -/
def Regs.accepts (r : Regs) : Instr → Bool
  | .begin _ rows _ => rows != 0#8
  | _ => r.begun

/-- The four entries of the row-offset table in order. -/
def RowTable.entries (t : RowTable) : List Byte := [t.entry0, t.entry1, t.entry2, t.entry3]

/-- The last valid row for an operand row: `min(row, 3, rows - 1)` (R182). -/
def lastValidRow (row rows : Byte) : Nat := min row.toNat (min 3 (rows.toNat - 1))

/-- The command byte R182 gives a cell when `rows >= 1`. -/
def Regs.cellCommand (r : Regs) (column row : Byte) : Byte :=
  0x80#8 ||| (column + r.rowOffset.entries.getD (lastValidRow row r.rows) 0#8)

/-- The row of R236's table for a request: `W` events, `D` events, minimum time. -/
def requestCounts : Instr → Nat × Nat × Nat
  | .begin _ _ _ => (56, 48, 63738)
  | .cls => (8, 7, 2084)
  | .home => (8, 7, 2084)
  | .locate _ _ => (8, 6, 84)
  | .displayOn => (8, 6, 84)
  | .displayOff => (8, 6, 84)
  | .cursorOn => (8, 6, 84)
  | .cursorOff => (8, 6, 84)
  | .blinkOn => (8, 6, 84)
  | .blinkOff => (8, 6, 84)
  | .scrollLeft => (8, 6, 84)
  | .scrollRight => (8, 6, 84)
  | .leftToRight => (8, 6, 84)
  | .rightToLeft => (8, 6, 84)
  | .autoscrollOn => (8, 6, 84)
  | .autoscrollOff => (8, 6, 84)
  | .backlightOn => (1, 0, 0)
  | .backlightOff => (1, 0, 0)
  | .create _ _ => (72, 54, 756)
  | .char _ _ _ => (16, 12, 168)
  | .write _ => (8, 6, 84)

/-- `W` events, `D` events and minimum time of a trace. -/
def countsOf (es : List Event) : Nat × Nat × Nat := ((busBytes es).length, (waits es).length, minimumTime es)

/-- The commands (false) and data bytes (true) a request sends, `BEGIN` apart (R123, R151 to R164, R180 to R184). -/
def Regs.bytesSent (r : Regs) : Instr → List (Bool × Byte)
  | .begin _ _ _ => []
  | .cls => [(false, 0x01#8)]
  | .home => [(false, 0x02#8)]
  | .locate column row => [(false, r.cellCommand column row)]
  | .displayOn => [(false, 0x08#8 ||| (r.displayControl ||| 0x04#8))]
  | .displayOff => [(false, 0x08#8 ||| (r.displayControl &&& 0xFB#8))]
  | .cursorOn => [(false, 0x08#8 ||| (r.displayControl ||| 0x02#8))]
  | .cursorOff => [(false, 0x08#8 ||| (r.displayControl &&& 0xFD#8))]
  | .blinkOn => [(false, 0x08#8 ||| (r.displayControl ||| 0x01#8))]
  | .blinkOff => [(false, 0x08#8 ||| (r.displayControl &&& 0xFE#8))]
  | .scrollLeft => [(false, 0x18#8)]
  | .scrollRight => [(false, 0x1C#8)]
  | .leftToRight => [(false, 0x04#8 ||| (r.displayMode ||| 0x02#8))]
  | .rightToLeft => [(false, 0x04#8 ||| (r.displayMode &&& 0xFD#8))]
  | .autoscrollOn => [(false, 0x04#8 ||| (r.displayMode ||| 0x01#8))]
  | .autoscrollOff => [(false, 0x04#8 ||| (r.displayMode &&& 0xFE#8))]
  | .backlightOn => []
  | .backlightOff => []
  | .create location charmap =>
    (false, 0x40#8 ||| ((location &&& 0x07#8) <<< 3)) :: charmap.rows.map (fun b => (true, b))
  | .char column row c => [(false, r.cellCommand column row), (true, c)]
  | .write value => [(true, value)]

/-- The names of the registers of R20 but for `phase`. -/
inductive RegName where
  | i2cAddr | columns | rows | dotsize | displayFunction | displayControl | displayMode | backlight | rowOffset | begun
  deriving DecidableEq, Repr

/-- Two register sets agree on one register. -/
def Regs.agree (r q : Regs) : RegName → Prop
  | .i2cAddr => r.i2cAddr = q.i2cAddr
  | .columns => r.columns = q.columns
  | .rows => r.rows = q.rows
  | .dotsize => r.dotsize = q.dotsize
  | .displayFunction => r.displayFunction = q.displayFunction
  | .displayControl => r.displayControl = q.displayControl
  | .displayMode => r.displayMode = q.displayMode
  | .backlight => r.backlight = q.backlight
  | .rowOffset => r.rowOffset = q.rowOffset
  | .begun => r.begun = q.begun

/-- The registers a request may write: the matrix of R35. -/
def registersWritten : Instr → List RegName
  | .begin _ _ _ => [.columns, .rows, .dotsize, .displayFunction, .rowOffset, .displayControl, .displayMode, .begun]
  | .displayOn => [.displayControl]
  | .displayOff => [.displayControl]
  | .cursorOn => [.displayControl]
  | .cursorOff => [.displayControl]
  | .blinkOn => [.displayControl]
  | .blinkOff => [.displayControl]
  | .scrollLeft => []
  | .scrollRight => []
  | .leftToRight => [.displayMode]
  | .rightToLeft => [.displayMode]
  | .autoscrollOn => [.displayMode]
  | .autoscrollOff => [.displayMode]
  | .backlightOn => [.backlight]
  | .backlightOff => [.backlight]
  | .cls => []
  | .home => []
  | .locate _ _ => []
  | .create _ _ => []
  | .char _ _ _ => []
  | .write _ => []

/-- Two states that differ in their history at most: the trace, the responses, the refusal mark (R11.2). -/
def State.sameButHistory (s t : State) : Prop :=
  s.regs = t.regs ∧ s.phase = t.phase ∧ s.input = t.input ∧ s.reqWord = t.reqWord

end Sys2Proof.Machine
end

