-- ==== Sys2Proof/WellFormed.lean ====
section
/-! DEFINITION. The one operand value the spec reserves: `BEGIN` with `rows = 0` (R87, R201). Every other operand value of
every request is accepted (R200, 92_eei_decisions.md D16). -/

namespace Sys2Proof

/-- A request whose operands the spec gives a meaning (R87: "`rows = 0` is a reserved operand value"). -/
def Instr.wellFormed : Instr → Bool
  | .begin _ rows _ => rows != 0
  | .cls => true
  | .home => true
  | .locate _ _ => true
  | .displayOn => true
  | .displayOff => true
  | .cursorOn => true
  | .cursorOff => true
  | .blinkOn => true
  | .blinkOff => true
  | .scrollLeft => true
  | .scrollRight => true
  | .leftToRight => true
  | .rightToLeft => true
  | .autoscrollOn => true
  | .autoscrollOff => true
  | .backlightOn => true
  | .backlightOff => true
  | .create _ _ => true
  | .char _ _ _ => true
  | .write _ => true

end Sys2Proof
end

