-- ==== Sys2Proof/Certificates/Slice0/Obligations.lean ====
section
/-! DEFINITION. The statements for the provers, from the numbered rules of the spec. `State.completed` (Safety.lean) is a
request carried out; `State.refuse` (Machine/Ops.lean) is the outcome R201 gives a refused one, which
`RefusedRequestOutcome` states field by field. A statement about a refused request is about the spec's refusal outcome,
not about hardware: the spec leaves that open for two of the three reasons (log 4). -/

open Sys2Proof Sys2Proof.Machine

/-! ### Encoding -/

/-- R70 to R74, R85, R88: decoding the words of any request, whatever follows them, gives it back with every operand. -/
def Obligations.DecodeEncodeRoundTrip : Prop :=
  ∀ (i : Instr) (rest : List Word), decode (encode i ++ rest) = .ok (i, rest)

/-- Words written out in 95_test_vectors.md VX and R83 decode to the requests they stand for. -/
def Obligations.SpecWordsDecode : Prop :=
  decode [0x01100200#32] = .ok (.begin 16#8 2#8 0#8, []) ∧
  decode [0x02ABCDEF#32] = .ok (.cls, []) ∧
  decode [0x04050399#32] = .ok (.locate 5#8 3#8, []) ∧
  decode [0x050D1234#32] = .ok (.backlightOff, []) ∧
  decode [0x06090000#32, 0x000A1F1F#32, 0x0E040000#32] =
    .ok (.create 9#8 ⟨0x00#8, 0x0A#8, 0x1F#8, 0x1F#8, 0x0E#8, 0x04#8, 0x00#8, 0x00#8⟩, []) ∧
  decode [0x07000041#32] = .ok (.char 0#8 0#8 0x41#8, []) ∧
  decode [0x08480000#32] = .ok (.write 0x48#8, []) ∧
  decode [0x050E0000#32] = .error .reservedMode ∧
  decode [0x09000000#32] = .error .reservedOpcode

/-- R88: the decoder on every head word; `glyphOfWords` is the reading of the two extension words that `CreateExtensionWords`
states byte by byte (R74). -/
def Obligations.DecoderReadsEveryHeadWord : Prop :=
  ∀ (w : Word) (rest : List Word),
    (Word.op w = 0x01#8 → decode (w :: rest) = .ok (.begin (Word.a w) (Word.b w) (Word.c w), rest)) ∧
    (Word.op w = 0x02#8 → decode (w :: rest) = .ok (.cls, rest)) ∧
    (Word.op w = 0x03#8 → decode (w :: rest) = .ok (.home, rest)) ∧
    (Word.op w = 0x04#8 → decode (w :: rest) = .ok (.locate (Word.a w) (Word.b w), rest)) ∧
    (Word.op w = 0x05#8 → ∀ i, displayVariants[(Word.a w).toNat]? = some i → decode (w :: rest) = .ok (i, rest)) ∧
    (Word.op w = 0x06#8 → ∀ x0 x1 later, rest = x0 :: x1 :: later →
      decode (w :: rest) = .ok (.create (Word.a w) (glyphOfWords x0 x1), later)) ∧
    (Word.op w = 0x07#8 → decode (w :: rest) = .ok (.char (Word.a w) (Word.b w) (Word.c w), rest)) ∧
    (Word.op w = 0x08#8 → decode (w :: rest) = .ok (.write (Word.a w), rest)) ∧
    (reservedWord w →
      decode (w :: rest) = .error .reservedOpcode ∨ decode (w :: rest) = .error .reservedMode)

/-- R74: where the extension words carry the eight rows, and that all 8 bits of each row are kept and sent, in index order,
after the command that addresses the slot. -/
def Obligations.CreateExtensionWords : Prop :=
  ∀ (w x0 x1 : Word) (rest : List Word), Word.op w = 0x06#8 →
    ∃ g : Glyph, decode (w :: x0 :: x1 :: rest) = .ok (.create (Word.a w) g, rest) ∧
      g.rows = [x0.extractLsb' 24 8, x0.extractLsb' 16 8, x0.extractLsb' 8 8, x0.extractLsb' 0 8,
        x1.extractLsb' 24 8, x1.extractLsb' 16 8, x1.extractLsb' 8 8, x1.extractLsb' 0 8] ∧
      ∀ s : State, s.regs.begun = true → ∃ t, exec (.create (Word.a w) g) s = .next t ∧
        (sentBytes (s.eventsSince t)).drop 1 = g.rows.map (fun b => (true, b))

/-- R85: the length of a request is told from `op` of its head word alone, and the two words after a `CREATE` head word belong
to it whatever their content. -/
def Obligations.LengthFromOpcodeAlone : Prop :=
  (∀ (w : Word) (ws : List Word) (i : Instr) (rest : List Word), decode (w :: ws) = .ok (i, rest) →
    rest = (w :: ws).drop (if Word.op w = 0x06#8 then 3 else 1)) ∧
  (∀ (w x0 x1 : Word) (ws : List Word), Word.op w = 0x06#8 → ∃ i, decode (w :: x0 :: x1 :: ws) = .ok (i, ws))

/-- R77: fields a format does not use have no effect on what is decoded, and the encoder writes them 0. -/
def Obligations.UnusedFieldsAreIgnored : Prop :=
  (∀ (v w : Word) (rest : List Word), Word.op v = Word.op w →
    ((usedFields (Word.op w)).1 = true → Word.a v = Word.a w) →
    ((usedFields (Word.op w)).2.1 = true → Word.b v = Word.b w) →
    ((usedFields (Word.op w)).2.2 = true → Word.c v = Word.c w) →
    decode (v :: rest) = decode (w :: rest)) ∧
  (∀ (i : Instr) (w : Word), (encode i).head? = some w →
    ((usedFields (Word.op w)).1 = false → Word.a w = 0#8) ∧
    ((usedFields (Word.op w)).2.1 = false → Word.b w = 0#8) ∧
    ((usedFields (Word.op w)).2.2 = false → Word.c w = 0#8))

/-- R76: an idle block drops a reserved head word, one word long: no event, no register change, `count = 0`, refused
`IllegalRequest`. -/
def Obligations.ReservedWordIsDropped : Prop :=
  ∀ (s : State) (w : Word) (later : List HostInput), s.phase = .idle → s.input = .word w :: later → reservedWord w →
    ∃ t, step s = .next t ∧ t.regs = s.regs ∧ t.phase = .idle ∧ t.trace = s.trace ∧ t.input = later ∧
      t.responses = s.responses ++ [0#8] ∧ t.refusals = s.refusals ++ [⟨.illegalRequest, w⟩]

/-! ### The step -/

/-- A step runs the decoded request: when the words at the port are those of request `i`, the step is `exec i` of the state
with those words taken and the head word latched. -/
def Obligations.StepRunsTheDecodedRequest : Prop :=
  ∀ (s : State) (i : Instr) (ws : List Word) (later : List HostInput),
    s.phase = .idle → s.input = ws.map .word ++ later → decode ws = .ok (i, []) → runsUndisturbed later →
    step s = exec i { s with reqWord := ws.headD 0#32, input := later }

/-- R200: no step faults. That a refused request, to which R201 gives no meaning, too answers a next state with the mark, and
not the third outcome of a step, is the model's choice (log 4). -/
def Obligations.StepAlwaysAnswersNext : Prop := ∀ s : State, ∃ t, step s = .next t

/-- R220, R226: an idle block without a request waits, and so does one that lacks an extension word of a `CREATE` (the latter
the model's choice, log 8). -/
def Obligations.IdleBlockWaits : Prop :=
  (∀ s : State, s.phase = .idle → s.input = [] → step s = .next s) ∧
  (∀ (s : State) (w : Word), s.phase = .idle → Word.op w = 0x06#8 → s.input = [.word w] → step s = .next s) ∧
  (∀ (s : State) (w x0 : Word), s.phase = .idle → Word.op w = 0x06#8 → s.input = [.word w, .word x0] →
    step s = .next s)

/-- R226: a busy block takes no word: it goes on by one event, the words stay at the port, and what it does does not depend on
them. -/
def Obligations.BusyBlockTakesNoWord : Prop :=
  ∀ (s : State) (next : Nat) (rest : List Micro) (count : Byte) (words : List HostInput),
    s.phase = .busy next rest count → runsUndisturbed s.input → runsUndisturbed words →
    ∃ t, step s = .next t ∧ t.input = s.input ∧ t.reqWord = s.reqWord ∧
      step { s with input := words } = .next { t with input := words }

/-- R29: carried out event by event, a request shows the index of its next event as the phase at every point, and ends where
the atomic request ends. -/
def Obligations.EventByEventIsAtomic : Prop :=
  ∀ (s : State) (program : List Micro) (count : Byte), program.any Micro.emits = true →
    (∀ n, n < (program.filter Micro.emits).length →
      ∃ rest, (State.tick^[n] (s.accept program count)).phase = .busy n rest count) ∧
    State.tick^[(program.filter Micro.emits).length] (s.accept program count) = s.runRequest program count

/-- R57: a step only appends to the trace, the responses and the mark (R201: the mark is kept). -/
def Obligations.StepOnlyAppends : Prop :=
  ∀ s t : State, step s = .next t →
    s.trace <+: t.trace ∧ s.responses <+: t.responses ∧ s.refusals <+: t.refusals

/-- R11.2, R31: the block never reads its own history: states that differ only in it do the same. -/
def Obligations.HistoryIsNeverRead : Prop :=
  ∀ s s' t t' : State, s.sameButHistory s' → step s = .next t → step s' = .next t' →
    t.sameButHistory t' ∧ s.eventsSince t = s'.eventsSince t' ∧
      t.responses.drop s.responses.length = t'.responses.drop s'.responses.length ∧
      t.refusals.drop s.refusals.length = t'.refusals.drop s'.refusals.length

/-! ### Reset -/

/-- R30: the reset values. -/
def Obligations.ResetValues : Prop :=
  State.reset.regs =
    { i2cAddr := Config.i2cAddr, columns := 0#8, rows := 0#8, dotsize := 0#8, displayFunction := 0#8,
      displayControl := 0#8, displayMode := 0#8, backlight := false, rowOffset := ⟨0#8, 0#8, 0#8, 0#8⟩, begun := false } ∧
  State.reset.phase = .idle

/-- R220: reset between requests puts every register at its value of R30, the block idle, and emits nothing. -/
def Obligations.ResetBetweenRequests : Prop :=
  ∀ (s : State) (later : List HostInput), s.phase = .idle → s.input = .reset :: later →
    ∃ t, step s = .next t ∧ t.regs = State.reset.regs ∧ t.phase = .idle ∧ t.trace = s.trace ∧
      t.responses = s.responses ∧ t.input = later

/-- R221: reset while event `k` of a request is in progress, more events following it, stops the trace after event `k` and puts
the registers at their reset values. That the request then gives no response and leaves no mark is the model's choice
(log 8); a reset at the last event is `ResetAtTheLastEvent`. -/
def Obligations.ResetInsideRequest : Prop :=
  ∀ (s t : State) (i : Instr) (ws : List Word) (k : Nat) (later : List HostInput),
    s.phase = .idle → s.input = ws.map .word ++ .resetDuring k :: later → decode ws = .ok (i, []) →
    exec i { s with reqWord := ws.headD 0#32, input := .resetDuring k :: later } = .next t →
    k + 1 < (s.eventsSince t).length →
    ∃ u, step s = .next u ∧ u.trace = s.trace ++ (s.eventsSince t).take (k + 1) ∧ u.regs = State.reset.regs ∧
      u.phase = .idle ∧ u.input = later ∧ u.responses = s.responses ∧ u.refusals = s.refusals

/-- The model's choice (log 8) where R221 leaves the edge open: a reset during the last event of a request, or at an event the
request does not have, lands after the request, which ends as without it; the next step takes the reset. -/
def Obligations.ResetAtTheLastEvent : Prop :=
  ∀ (s t : State) (i : Instr) (ws : List Word) (k : Nat) (later : List HostInput),
    s.phase = .idle → s.input = ws.map .word ++ .resetDuring k :: later → decode ws = .ok (i, []) →
    exec i { s with reqWord := ws.headD 0#32, input := .resetDuring k :: later } = .next t →
    (s.eventsSince t).length ≤ k + 1 →
    step s = .next t ∧ ∃ u, step t = .next u ∧ u.regs = State.reset.regs ∧ u.phase = .idle ∧ u.input = later ∧
      u.trace = t.trace ∧ u.responses = t.responses ∧ u.refusals = t.refusals

/-! ### Micro-operations -/

/-- R100: one event, the byte with the backlight bit OR-ed in, to the bus address; no register written. -/
def Obligations.ExpanderWriteEmitsOneByte : Prop :=
  ∀ (s : State) (data : Byte), s.performAll [.expanderWrite data] =
    { s with trace := s.trace ++
      [.busWrite s.regs.i2cAddr (data ||| if s.regs.backlight = true then 0x08#8 else 0x00#8)] }

/-- R110: the six events of `pulseEnable`, for every value. -/
def Obligations.PulseEnableTrace : Prop :=
  ∀ (s : State) (value : Byte), s.performAll (pulseEnable value) =
    { s with trace := s.trace ++ s.regs.pulseTrace value }

/-- R111: the seven events of `write4bits`, for every value; for a value with EN clear the four bytes are `v, v, v|EN, v`. -/
def Obligations.Write4bitsTrace : Prop :=
  ∀ (s : State) (value : Byte),
    s.performAll (write4bits value) = { s with trace := s.trace ++ s.regs.nibbleTrace value } ∧
    (value &&& 0x04#8 = 0#8 → busBytes (s.regs.nibbleTrace value) =
      [value ||| s.regs.backlightMask, value ||| s.regs.backlightMask, value ||| s.regs.backlightMask ||| 0x04#8,
        value ||| s.regs.backlightMask])

/-- R120, R124: `send` is two `write4bits`, high nibble first, for every mode; with mode 0 or RS it has the fourteen events of
R120 and the display latches `value[7:4]` then `value[3:0]`. -/
def Obligations.SendHighNibbleFirst : Prop :=
  ∀ (s : State) (value mode : Byte),
    s.performAll (send value mode) =
      { s with trace := s.trace ++ (s.regs.nibbleTrace ((value &&& 0xF0#8) ||| mode) ++
        s.regs.nibbleTrace (((value <<< 4) &&& 0xF0#8) ||| mode)) } ∧
    (mode = 0x00#8 ∨ mode = 0x01#8 →
      s.performAll (send value mode) = { s with trace := s.trace ++ s.regs.sendTrace value mode } ∧
      latched (s.regs.sendTrace value mode) =
        [(mode == 0x01#8, value.extractLsb' 4 4), (mode == 0x01#8, value.extractLsb' 0 4)])

/-! ### The requests: result, trace, response and frame in one equation; refused while `begun = 0` -/

/-- R123. -/
def Obligations.WriteSendsOneDataByte : Prop :=
  ∀ (value : Byte) (s : State),
    encode (.write value) = [0x08#8 ++ value ++ 0x00#8 ++ 0x00#8] ∧
    (s.regs.begun = true → exec (.write value) s = .next (s.completed s.regs (s.regs.dataTrace value) 1#8)) ∧
    (s.regs.begun = false → exec (.write value) s = .next (s.refuse .notBegun))

/-- R130, R131, R140: the registers and the trace of `BEGIN`, from every state; `rows = 0` is refused. -/
def Obligations.BeginRunsTheBringUp : Prop :=
  ∀ (columns rows dotsize : Byte) (s : State),
    encode (.begin columns rows dotsize) = [0x01#8 ++ columns ++ rows ++ dotsize] ∧
    (rows ≠ 0#8 → exec (.begin columns rows dotsize) s = .next (s.completed
      { s.regs with
        columns := columns, rows := rows, dotsize := dotsize,
        displayFunction := (if 1 < rows.toNat then 0x08#8 else 0x00#8) |||
          (if dotsize ≠ 0#8 ∧ rows = 1#8 then 0x04#8 else 0x00#8),
        rowOffset := ⟨0x00#8, 0x40#8, columns, 0x40#8 + columns⟩,
        displayControl := 0x04#8, displayMode := 0x02#8, begun := true }
      ([.wait 50000] ++ s.regs.nibbleTrace 0x30#8 ++ [.wait 4500] ++ s.regs.nibbleTrace 0x30#8 ++ [.wait 4500] ++
        s.regs.nibbleTrace 0x30#8 ++ [.wait 150] ++ s.regs.nibbleTrace 0x20#8 ++
        s.regs.commandTrace (0x20#8 ||| ((if 1 < rows.toNat then 0x08#8 else 0x00#8) |||
          (if dotsize ≠ 0#8 ∧ rows = 1#8 then 0x04#8 else 0x00#8))) ++
        s.regs.commandTrace 0x0C#8 ++ s.regs.commandTrace 0x01#8 ++ [.wait 2000] ++ s.regs.commandTrace 0x06#8 ++
        s.regs.commandTrace 0x02#8 ++ [.wait 2000])
      0#8)) ∧
    (rows = 0#8 → exec (.begin columns rows dotsize) s = .next (s.refuse .badGeometry))

/-- R151, R152: the head word, the register, the command with the whole byte. -/
def Obligations.DisplayOnOffResult : Prop :=
  encode .displayOn = [0x05000000#32] ∧ encode .displayOff = [0x05010000#32] ∧
  ∀ s : State, s.regs.begun = true →
    exec .displayOn s = .next (s.completed { s.regs with displayControl := s.regs.displayControl ||| 0x04#8 }
      (s.regs.commandTrace (0x08#8 ||| (s.regs.displayControl ||| 0x04#8))) 0#8) ∧
    exec .displayOff s = .next (s.completed { s.regs with displayControl := s.regs.displayControl &&& 0xFB#8 }
      (s.regs.commandTrace (0x08#8 ||| (s.regs.displayControl &&& 0xFB#8))) 0#8)

/-- R153, R154. -/
def Obligations.CursorOnOffResult : Prop :=
  encode .cursorOn = [0x05020000#32] ∧ encode .cursorOff = [0x05030000#32] ∧
  ∀ s : State, s.regs.begun = true →
    exec .cursorOn s = .next (s.completed { s.regs with displayControl := s.regs.displayControl ||| 0x02#8 }
      (s.regs.commandTrace (0x08#8 ||| (s.regs.displayControl ||| 0x02#8))) 0#8) ∧
    exec .cursorOff s = .next (s.completed { s.regs with displayControl := s.regs.displayControl &&& 0xFD#8 }
      (s.regs.commandTrace (0x08#8 ||| (s.regs.displayControl &&& 0xFD#8))) 0#8)

/-- R155, R156. -/
def Obligations.BlinkOnOffResult : Prop :=
  encode .blinkOn = [0x05040000#32] ∧ encode .blinkOff = [0x05050000#32] ∧
  ∀ s : State, s.regs.begun = true →
    exec .blinkOn s = .next (s.completed { s.regs with displayControl := s.regs.displayControl ||| 0x01#8 }
      (s.regs.commandTrace (0x08#8 ||| (s.regs.displayControl ||| 0x01#8))) 0#8) ∧
    exec .blinkOff s = .next (s.completed { s.regs with displayControl := s.regs.displayControl &&& 0xFE#8 }
      (s.regs.commandTrace (0x08#8 ||| (s.regs.displayControl &&& 0xFE#8))) 0#8)

/-- R157, R158: no register written. -/
def Obligations.ScrollResult : Prop :=
  encode .scrollLeft = [0x05060000#32] ∧ encode .scrollRight = [0x05070000#32] ∧
  ∀ s : State, s.regs.begun = true →
    exec .scrollLeft s = .next (s.completed s.regs (s.regs.commandTrace 0x18#8) 0#8) ∧
    exec .scrollRight s = .next (s.completed s.regs (s.regs.commandTrace 0x1C#8) 0#8)

/-- R159, R160. -/
def Obligations.EntryDirectionResult : Prop :=
  encode .leftToRight = [0x05080000#32] ∧ encode .rightToLeft = [0x05090000#32] ∧
  ∀ s : State, s.regs.begun = true →
    exec .leftToRight s = .next (s.completed { s.regs with displayMode := s.regs.displayMode ||| 0x02#8 }
      (s.regs.commandTrace (0x04#8 ||| (s.regs.displayMode ||| 0x02#8))) 0#8) ∧
    exec .rightToLeft s = .next (s.completed { s.regs with displayMode := s.regs.displayMode &&& 0xFD#8 }
      (s.regs.commandTrace (0x04#8 ||| (s.regs.displayMode &&& 0xFD#8))) 0#8)

/-- R161, R162. -/
def Obligations.AutoscrollResult : Prop :=
  encode .autoscrollOn = [0x050A0000#32] ∧ encode .autoscrollOff = [0x050B0000#32] ∧
  ∀ s : State, s.regs.begun = true →
    exec .autoscrollOn s = .next (s.completed { s.regs with displayMode := s.regs.displayMode ||| 0x01#8 }
      (s.regs.commandTrace (0x04#8 ||| (s.regs.displayMode ||| 0x01#8))) 0#8) ∧
    exec .autoscrollOff s = .next (s.completed { s.regs with displayMode := s.regs.displayMode &&& 0xFE#8 }
      (s.regs.commandTrace (0x04#8 ||| (s.regs.displayMode &&& 0xFE#8))) 0#8)

/-- R163, R164: the refresh byte already carries the new bit; one event, no wait, nothing latched. -/
def Obligations.BacklightResult : Prop :=
  encode .backlightOn = [0x050C0000#32] ∧ encode .backlightOff = [0x050D0000#32] ∧
  ∀ s : State, s.regs.begun = true →
    exec .backlightOn s = .next (s.completed { s.regs with backlight := true }
      [.busWrite s.regs.i2cAddr 0x08#8] 0#8) ∧
    exec .backlightOff s = .next (s.completed { s.regs with backlight := false }
      [.busWrite s.regs.i2cAddr 0x00#8] 0#8) ∧
    latched [.busWrite s.regs.i2cAddr 0x08#8] = [] ∧ latched [.busWrite s.regs.i2cAddr 0x00#8] = []

/-- R150: `DISPLAY` encodes 14 variants and no more; each is refused while `begun = 0` and else responds 0. -/
def Obligations.DisplayDispatch : Prop :=
  (∀ (w : Word) (rest : List Word), Word.op w = 0x05#8 → 13#8 < Word.a w →
    decode (w :: rest) = .error .reservedMode) ∧
  ∀ (w : Word) (i : Instr) (rest : List Word) (s : State),
    Word.op w = 0x05#8 → displayVariants[(Word.a w).toNat]? = some i →
    decode (w :: rest) = .ok (i, rest) ∧
    (s.regs.begun = false → exec i s = .next (s.refuse .notBegun)) ∧
    (s.regs.begun = true → ∃ t, exec i s = .next t ∧ t.responses = s.responses ++ [0#8] ∧ t.refusals = s.refusals)

/-- R180. -/
def Obligations.ClsResult : Prop :=
  ∀ s : State,
    encode .cls = [0x02000000#32] ∧
    (s.regs.begun = true →
      exec .cls s = .next (s.completed s.regs (s.regs.commandTrace 0x01#8 ++ [.wait 2000]) 0#8)) ∧
    (s.regs.begun = false → exec .cls s = .next (s.refuse .notBegun))

/-- R181. -/
def Obligations.HomeResult : Prop :=
  ∀ s : State,
    encode .home = [0x03000000#32] ∧
    (s.regs.begun = true →
      exec .home s = .next (s.completed s.regs (s.regs.commandTrace 0x02#8 ++ [.wait 2000]) 0#8)) ∧
    (s.regs.begun = false → exec .home s = .next (s.refuse .notBegun))

/-- R182: the row goes to `min(row, 3, rows - 1)`, the column is not clamped, the sum is taken modulo 256. -/
def Obligations.LocateSetsTheClampedAddress : Prop :=
  ∀ (column row : Byte) (s : State),
    encode (.locate column row) = [0x04#8 ++ column ++ row ++ 0x00#8] ∧
    (s.regs.begun = true → s.regs.rows ≠ 0#8 →
      exec (.locate column row) s =
        .next (s.completed s.regs (s.regs.commandTrace (s.regs.cellCommand column row)) 0#8)) ∧
    (s.regs.begun = false → exec (.locate column row) s = .next (s.refuse .notBegun))

/-- The two clamps of R182 in their order give `min(row, 3, rows - 1)`, an index of the table, when `rows >= 1`; every row
goes to 0 on a one-row display. -/
def Obligations.RowClampIsTheMinimum : Prop :=
  ∀ row rows : Byte, rows ≠ 0#8 →
    (clampRow row rows).toNat = min row.toNat (min 3 (rows.toNat - 1)) ∧
    (tableIndex (clampRow row rows)).val = (clampRow row rows).toNat ∧ (rows = 1#8 → clampRow row rows = 0#8)

/-- The model's choice where `rows - 1` is not defined (log 5): with `rows = 0` `LOCATE` and `CHAR` still complete, with a free
value for the table byte. -/
def Obligations.AddressWithNoRowsIsFree : Prop :=
  ∀ (column row c : Byte) (s : State), s.regs.begun = true → s.regs.rows = 0#8 →
    exec (.locate column row) s = .next (s.completed s.regs
      (s.regs.commandTrace (0x80#8 ||| (column + Config.rowBaseOfNoRows row))) 0#8) ∧
    exec (.char column row c) s = .next (s.completed s.regs
      (s.regs.commandTrace (0x80#8 ||| (column + Config.rowBaseOfNoRows row)) ++ s.regs.dataTrace c) 0#8)

/-- R183: the address of the slot, then the eight rows unchanged and in order. -/
def Obligations.CreateUploadsTheGlyph : Prop :=
  ∀ (location : Byte) (g : Glyph) (s : State),
    encode (.create location g) = [0x06#8 ++ location ++ 0x00#8 ++ 0x00#8, g.row0 ++ g.row1 ++ g.row2 ++ g.row3,
      g.row4 ++ g.row5 ++ g.row6 ++ g.row7] ∧
    (s.regs.begun = true →
      exec (.create location g) s = .next (s.completed s.regs
        (s.regs.commandTrace (0x40#8 ||| ((location &&& 0x07#8) <<< 3)) ++
          s.regs.dataTrace g.row0 ++ s.regs.dataTrace g.row1 ++ s.regs.dataTrace g.row2 ++ s.regs.dataTrace g.row3 ++
          s.regs.dataTrace g.row4 ++ s.regs.dataTrace g.row5 ++ s.regs.dataTrace g.row6 ++ s.regs.dataTrace g.row7)
        0#8)) ∧
    (s.regs.begun = false → exec (.create location g) s = .next (s.refuse .notBegun))

/-- R183, S4: two locations equal modulo 8 address the same slot, by the command byte `0x40 + 8 * (location mod 8)`. -/
def Obligations.CreateMasksTheLocation : Prop :=
  ∀ (m n : Byte) (g : Glyph) (s : State), m.toNat % 8 = n.toNat % 8 →
    exec (.create m g) s = exec (.create n g) s ∧ (cgramCommand m).toNat = 0x40 + 8 * (m.toNat % 8)

/-- R184: `locate`, then one data byte; `count = 0`. -/
def Obligations.CharIsLocateThenWrite : Prop :=
  ∀ (column row c : Byte) (s : State),
    encode (.char column row c) = [0x07#8 ++ column ++ row ++ c] ∧
    (s.regs.begun = true → s.regs.rows ≠ 0#8 →
      exec (.char column row c) s = .next (s.completed s.regs
        (s.regs.commandTrace (s.regs.cellCommand column row) ++ s.regs.dataTrace c) 0#8)) ∧
    (s.regs.begun = false → exec (.char column row c) s = .next (s.refuse .notBegun))

/-! ### Refusals -/

/-- R201: the outcome of a refused request, for the three reasons, field by field: no event, no register changed, `count = 0`,
the head word recorded. -/
def Obligations.RefusedRequestOutcome : Prop :=
  (∀ (i : Instr) (s : State), (∀ c r d, i ≠ .begin c r d) → s.regs.begun = false →
    exec i s = .next { s with
      phase := .idle, responses := s.responses ++ [0#8], refusals := s.refusals ++ [⟨.notBegun, s.reqWord⟩] }) ∧
  (∀ (c d : Byte) (s : State), exec (.begin c 0#8 d) s = .next { s with
      phase := .idle, responses := s.responses ++ [0#8], refusals := s.refusals ++ [⟨.badGeometry, s.reqWord⟩] }) ∧
  (∀ (s : State) (w : Word) (later : List HostInput), s.phase = .idle → s.input = .word w :: later → reservedWord w →
    ∃ t, step s = .next t ∧ t.regs = s.regs ∧ t.phase = .idle ∧ t.trace = s.trace ∧ t.input = later ∧
      t.responses = s.responses ++ [0#8] ∧ t.refusals = s.refusals ++ [⟨.illegalRequest, w⟩]) ∧
  (∀ s t : State, step s = .next t → s.refusals <+: t.refusals)

/-- R204: decoding is tested before admission, `BEGIN` is never `NotBegun`, and a request reports at most one reason. -/
def Obligations.RefusalOrder : Prop :=
  (∀ (s : State) (w : Word) (later : List HostInput), s.phase = .idle → s.input = .word w :: later →
    Word.op w = 0x05#8 → 13#8 < Word.a w → s.regs.begun = false →
    ∃ t, step s = .next t ∧ t.refusals = s.refusals ++ [⟨.illegalRequest, w⟩]) ∧
  (∀ (c r d : Byte) (s t : State), exec (.begin c r d) s = .next t →
    t.refusals = s.refusals ∨ t.refusals = s.refusals ++ [⟨.badGeometry, s.reqWord⟩]) ∧
  (∀ (i : Instr) (s t : State), exec i s = .next t → t.refusals.length ≤ s.refusals.length + 1)

/-- R205: a request is executed whole or not at all: either no refusal is marked and its events are all there, or it is
refused and nothing but the response and the mark is new. -/
def Obligations.WholeOrNotAtAll : Prop :=
  ∀ (i : Instr) (s t : State), exec i s = .next t →
    t.phase = .idle ∧
    ((t.refusals = s.refusals ∧ countsOf (s.eventsSince t) = requestCounts i) ∨
     (t.regs = s.regs ∧ t.trace = s.trace ∧ t.responses = s.responses ++ [0#8] ∧
      ∃ reason, t.refusals = s.refusals ++ [⟨reason, s.reqWord⟩]))

/-! ### Frames, invariants and properties over all requests -/

/-- R35: a request never writes a register that its row does not list; the micro-operations write none. -/
def Obligations.RegisterWriteMatrix : Prop :=
  (∀ (i : Instr) (s t : State) (n : RegName), exec i s = .next t → n ∉ registersWritten i → s.regs.agree t.regs n) ∧
  (∀ (s : State) (v m : Byte),
    (s.performAll [.expanderWrite v]).regs = s.regs ∧ (s.performAll (pulseEnable v)).regs = s.regs ∧
    (s.performAll (write4bits v)).regs = s.regs ∧ (s.performAll (send v m)).regs = s.regs ∧
    (s.performAll (command v)).regs = s.regs ∧ (s.performAll (writeData v)).regs = s.regs)

/-- The frame of every request outside the registers: the port and the latched head word stay, the trace and the mark grow at
their end, one response is given, and the block is idle after it. -/
def Obligations.RequestFrame : Prop :=
  ∀ (i : Instr) (s t : State), exec i s = .next t →
    t.input = s.input ∧ t.reqWord = s.reqWord ∧ t.phase = .idle ∧ s.trace <+: t.trace ∧
    (∃ count, t.responses = s.responses ++ [count]) ∧ s.refusals <+: t.refusals

/-- R30, R34, R21: the invariant holds at reset. -/
def Obligations.SoundAtReset : Prop := State.reset.sound

/-- R21, R28, R34, R5, R51, R102: every step keeps the invariant: the block is idle between requests, the bus address never
changes, before a completed `BEGIN` the registers have their reset values and after it R34 holds, and every event is a
write to the bus address with RW = 0 or one of the waits of R5. -/
def Obligations.StepKeepsSound : Prop :=
  ∀ s t : State, s.sound → step s = .next t → t.sound

/-- R34: the register invariants hold after any completed `BEGIN` and every request keeps them. -/
def Obligations.BroughtUpRegisters : Prop :=
  (∀ (c r d : Byte) (s : State), r ≠ 0#8 →
    ∃ t, exec (.begin c r d) s = .next t ∧ t.regs.broughtUp ∧ t.regs.displayFunction &&& 0x10#8 = 0#8) ∧
  (∀ (i : Instr) (s t : State), s.regs.broughtUp → exec i s = .next t → t.regs.broughtUp)

/-- R236: every request the block accepts completes with the number of events and the minimum time of the table, and so do the
micro-operations. -/
def Obligations.EventCounts : Prop :=
  (∀ (i : Instr) (s : State), s.regs.accepts i = true →
    ∃ t, exec i s = .next t ∧ t.refusals = s.refusals ∧ countsOf (s.eventsSince t) = requestCounts i ∧
      (s.eventsSince t).length = (requestCounts i).1 + (requestCounts i).2.1) ∧
  (∀ (s : State) (v m : Byte),
    countsOf (s.eventsSince (s.performAll [.expanderWrite v])) = (1, 0, 0) ∧
    countsOf (s.eventsSince (s.performAll (pulseEnable v))) = (3, 3, 42) ∧
    countsOf (s.eventsSince (s.performAll (write4bits v))) = (4, 3, 42) ∧
    countsOf (s.eventsSince (s.performAll (send v m))) = (8, 6, 84) ∧
    countsOf (s.eventsSince (s.performAll (command v))) = (8, 6, 84) ∧
    countsOf (s.eventsSince (s.performAll (writeData v))) = (8, 6, 84))

/-- R102 (a), (b), R110: in every byte a request emits bit 3 is the backlight and RW is 0, and a request that emits leaves EN
low. -/
def Obligations.EveryByteCarriesTheBacklight : Prop :=
  ∀ (i : Instr) (s t : State), exec i s = .next t →
    (∀ b ∈ busBytes (s.eventsSince t),
      (b &&& 0x08#8 = if t.regs.backlight = true then 0x08#8 else 0x00#8) ∧ b &&& 0x02#8 = 0#8) ∧
    (∀ b, expanderLines (s.eventsSince t) = some b → enable b = false)

/-- R52, R114, R120: the display gets exactly the commands and data bytes of the request, each as two latched nibbles, high
nibble first. -/
def Obligations.DisplayGetsTheBytes : Prop :=
  ∀ (i : Instr) (s t : State), (∀ c r d, i ≠ .begin c r d) → s.regs.begun = true → s.regs.rows ≠ 0#8 →
    exec i s = .next t →
    sentBytes (s.eventsSince t) = s.regs.bytesSent i ∧
    (latched (s.eventsSince t)).length = 2 * (s.regs.bytesSent i).length

/-- R140: the fourteen nibbles of `BEGIN`, all with RS = 0. -/
def Obligations.BeginLatchesFourteenNibbles : Prop :=
  ∀ (c r d : Byte) (s t : State), r ≠ 0#8 → exec (.begin c r d) s = .next t →
    latched (s.eventsSince t) =
      [(false, 3#4), (false, 3#4), (false, 3#4), (false, 2#4), (false, 2#4),
       (false, t.regs.displayFunction.extractLsb' 0 4), (false, 0#4), (false, 0xC#4), (false, 0#4), (false, 1#4),
       (false, 0#4), (false, 6#4), (false, 0#4), (false, 2#4)]

/-- R165: from a clear bit an on/off pair restores the register, from a set bit the off/on pair does; every request of a pair
changes its own bit only and re-sends the whole byte. -/
def Obligations.OnOffPairsRestore : Prop :=
  (∀ (s : State) (on off : Instr) (m : Byte), s.regs.begun = true →
    (on, off, m) ∈ [(Instr.displayOn, Instr.displayOff, 0x04#8), (Instr.cursorOn, Instr.cursorOff, 0x02#8),
      (Instr.blinkOn, Instr.blinkOff, 0x01#8)] →
    ∃ t u t' u', exec on s = .next t ∧ exec off t = .next u ∧ exec off s = .next t' ∧ exec on t' = .next u' ∧
      t.regs = { s.regs with displayControl := s.regs.displayControl ||| m } ∧ t'.regs = { s.regs with displayControl := s.regs.displayControl &&& ~~~m } ∧
      (s.regs.displayControl &&& m = 0#8 → u.regs = s.regs) ∧
      (s.regs.displayControl &&& m ≠ 0#8 → u.regs.displayControl = s.regs.displayControl &&& ~~~m ∧ u'.regs = s.regs) ∧
      u.trace = s.trace ++ s.regs.commandTrace (0x08#8 ||| (s.regs.displayControl ||| m)) ++
        s.regs.commandTrace (0x08#8 ||| (s.regs.displayControl &&& ~~~m)) ∧
      u'.trace = s.trace ++ s.regs.commandTrace (0x08#8 ||| (s.regs.displayControl &&& ~~~m)) ++
        s.regs.commandTrace (0x08#8 ||| (s.regs.displayControl ||| m))) ∧
  (∀ (s : State) (on off : Instr) (m : Byte), s.regs.begun = true →
    (on, off, m) ∈ [(Instr.leftToRight, Instr.rightToLeft, 0x02#8),
      (Instr.autoscrollOn, Instr.autoscrollOff, 0x01#8)] →
    ∃ t u t' u', exec on s = .next t ∧ exec off t = .next u ∧ exec off s = .next t' ∧ exec on t' = .next u' ∧
      t.regs = { s.regs with displayMode := s.regs.displayMode ||| m } ∧ t'.regs = { s.regs with displayMode := s.regs.displayMode &&& ~~~m } ∧
      (s.regs.displayMode &&& m = 0#8 → u.regs = s.regs) ∧
      (s.regs.displayMode &&& m ≠ 0#8 → u.regs.displayMode = s.regs.displayMode &&& ~~~m ∧ u'.regs = s.regs) ∧
      u.trace = s.trace ++ s.regs.commandTrace (0x04#8 ||| (s.regs.displayMode ||| m)) ++
        s.regs.commandTrace (0x04#8 ||| (s.regs.displayMode &&& ~~~m)) ∧
      u'.trace = s.trace ++ s.regs.commandTrace (0x04#8 ||| (s.regs.displayMode &&& ~~~m)) ++
        s.regs.commandTrace (0x04#8 ||| (s.regs.displayMode ||| m)))

/-- R142: a `BEGIN` in any state, a second one among them, does the same whatever the registers were, but for the bus address
and the backlight, which it keeps. -/
def Obligations.SecondBeginStartsAfresh : Prop :=
  ∀ (c r d : Byte) (s s' : State), r ≠ 0#8 → s.regs.i2cAddr = s'.regs.i2cAddr →
    s.regs.backlight = s'.regs.backlight →
    ∃ t t', exec (.begin c r d) s = .next t ∧ exec (.begin c r d) s' = .next t' ∧
      t.regs = t'.regs ∧ s.eventsSince t = s'.eventsSince t' ∧ countsOf (s.eventsSince t) = (56, 48, 63738) ∧
      t.regs.columns = c ∧ t.regs.rows = r ∧ t.regs.dotsize = d ∧
      t.regs.rowOffset = ⟨0x00#8, 0x40#8, c, 0x40#8 + c⟩ ∧ t.regs.displayFunction = (if 1 < r.toNat then 0x08#8 else 0x00#8) |||
        (if d ≠ 0#8 ∧ r = 1#8 then 0x04#8 else 0x00#8) ∧
      t.regs.displayControl = 0x04#8 ∧ t.regs.displayMode = 0x02#8 ∧ t.regs.backlight = s.regs.backlight

/-- R84, R83, R7: `PRINT` expands to one `WRITE` per byte of the first `min(n, columns)` bytes; `BEGIN` without operands is
`BEGIN 16, 2, 5x8`; `BACKLIGHT` is the `DISPLAY` variant. -/
def Obligations.PseudoOperationsExpand : Prop :=
  (∀ (columns : Byte) (text : List Byte),
    (assemblePrint columns text).length = min text.length columns.toNat ∧
    ∀ k, k < min text.length columns.toNat → (assemblePrint columns text)[k]? = text[k]?.map .write) ∧
  assembleBegin none none none = .begin 16#8 2#8 0#8 ∧
  assembleBacklight true = .backlightOn ∧ assembleBacklight false = .backlightOff

/-- R87, R201: `BEGIN` with `rows = 0` is the one reserved operand value: every other request is accepted in every state after
a completed `BEGIN`. -/
def Obligations.OneReservedOperand : Prop :=
  ∀ (i : Instr) (s : State), s.regs.begun = true →
    (i.wellFormed = true → ∃ t, exec i s = .next t ∧ t.refusals = s.refusals) ∧
    (i.wellFormed = false → exec i s = .next (s.refuse .badGeometry))
end

