-- ==== Sys2Proof/Laws/State.lean ====
section
/-! SUPPORT. The fields of State after each named update. -/

namespace Sys2Proof.Machine

section Emit
variable (s : State) (e : Event)

@[simp] theorem emit_regs : (s.emit e).regs = s.regs := rfl
@[simp] theorem emit_phase : (s.emit e).phase = s.phase := rfl
@[simp] theorem emit_input : (s.emit e).input = s.input := rfl
@[simp] theorem emit_reqWord : (s.emit e).reqWord = s.reqWord := rfl
@[simp] theorem emit_trace : (s.emit e).trace = s.trace ++ [e] := rfl
@[simp] theorem emit_responses : (s.emit e).responses = s.responses := rfl
@[simp] theorem emit_refusals : (s.emit e).refusals = s.refusals := rfl
end Emit

section Accept
variable (s : State) (p : List Micro) (c : Byte)

@[simp] theorem accept_regs : (s.accept p c).regs = s.regs := rfl
@[simp] theorem accept_phase : (s.accept p c).phase = .busy 0 p c := rfl
@[simp] theorem accept_input : (s.accept p c).input = s.input := rfl
@[simp] theorem accept_reqWord : (s.accept p c).reqWord = s.reqWord := rfl
@[simp] theorem accept_trace : (s.accept p c).trace = s.trace := rfl
@[simp] theorem accept_responses : (s.accept p c).responses = s.responses := rfl
@[simp] theorem accept_refusals : (s.accept p c).refusals = s.refusals := rfl
end Accept

section Finish
variable (s : State) (c : Byte)

@[simp] theorem finish_regs : (s.finish c).regs = s.regs := rfl
@[simp] theorem finish_phase : (s.finish c).phase = .idle := rfl
@[simp] theorem finish_input : (s.finish c).input = s.input := rfl
@[simp] theorem finish_reqWord : (s.finish c).reqWord = s.reqWord := rfl
@[simp] theorem finish_trace : (s.finish c).trace = s.trace := rfl
@[simp] theorem finish_responses : (s.finish c).responses = s.responses ++ [c] := rfl
@[simp] theorem finish_refusals : (s.finish c).refusals = s.refusals := rfl
end Finish

section Refuse
variable (s : State) (r : RefusalReason)

@[simp] theorem refuse_regs : (s.refuse r).regs = s.regs := rfl
@[simp] theorem refuse_phase : (s.refuse r).phase = .idle := rfl
@[simp] theorem refuse_input : (s.refuse r).input = s.input := rfl
@[simp] theorem refuse_reqWord : (s.refuse r).reqWord = s.reqWord := rfl
@[simp] theorem refuse_trace : (s.refuse r).trace = s.trace := rfl
@[simp] theorem refuse_responses : (s.refuse r).responses = s.responses ++ [0x00#8] := rfl
@[simp] theorem refuse_refusals : (s.refuse r).refusals = s.refusals ++ [⟨r, s.reqWord⟩] := rfl
end Refuse

section Reset
variable (s : State) (rest : List HostInput)

@[simp] theorem takeReset_regs : (s.takeReset rest).regs = Regs.reset := rfl
@[simp] theorem takeReset_phase : (s.takeReset rest).phase = .idle := rfl
@[simp] theorem takeReset_input : (s.takeReset rest).input = rest := rfl
@[simp] theorem takeReset_reqWord : (s.takeReset rest).reqWord = 0 := rfl
@[simp] theorem takeReset_trace : (s.takeReset rest).trace = s.trace := rfl
@[simp] theorem takeReset_responses : (s.takeReset rest).responses = s.responses := rfl
@[simp] theorem takeReset_refusals : (s.takeReset rest).refusals = s.refusals := rfl
end Reset

section Take
variable (s : State) (n : Nat)

@[simp] theorem take_regs : (s.take n).regs = s.regs := rfl
@[simp] theorem take_phase : (s.take n).phase = s.phase := rfl
@[simp] theorem take_input : (s.take n).input = s.input.drop n := rfl
@[simp] theorem take_reqWord : (s.take n).reqWord = (portWords s.input).headD 0 := rfl
@[simp] theorem take_trace : (s.take n).trace = s.trace := rfl
@[simp] theorem take_responses : (s.take n).responses = s.responses := rfl
@[simp] theorem take_refusals : (s.take n).refusals = s.refusals := rfl
end Take

section Completed
variable (s : State) (r : Regs) (es : List Event) (c : Byte)

@[simp] theorem completed_regs : (s.completed r es c).regs = r := rfl
@[simp] theorem completed_phase : (s.completed r es c).phase = .idle := rfl
@[simp] theorem completed_input : (s.completed r es c).input = s.input := rfl
@[simp] theorem completed_reqWord : (s.completed r es c).reqWord = s.reqWord := rfl
@[simp] theorem completed_trace : (s.completed r es c).trace = s.trace ++ es := rfl
@[simp] theorem completed_responses : (s.completed r es c).responses = s.responses ++ [c] := rfl
@[simp] theorem completed_refusals : (s.completed r es c).refusals = s.refusals := rfl
end Completed

end Sys2Proof.Machine
end

