-- ==== Sys2Proof/Laws/Ops.lean ====
section
/-! SUPPORT. What the shared operations can do, said once: a program of lines changes the registers by its register writes and
appends its events; a request either is refused or completes. -/

namespace Sys2Proof.Machine

/-- The registers after a program. -/
def regsAfter (r : Regs) : List Micro → Regs
  | [] => r
  | .setReg w :: ms => regsAfter (r.store w) ms
  | .expanderWrite _ :: ms => regsAfter r ms
  | .delay _ :: ms => regsAfter r ms

/-- The events of a program, each with the registers as they are at that event. -/
def eventsOf (r : Regs) : List Micro → List Event
  | [] => []
  | .setReg w :: ms => eventsOf (r.store w) ms
  | .expanderWrite d :: ms => r.writeEvent (d ||| r.backlightMask) :: eventsOf r ms
  | .delay us :: ms => .wait us :: eventsOf r ms

theorem performAll_eq (s : State) (p : List Micro) :
    s.performAll p = { s with regs := regsAfter s.regs p, trace := s.trace ++ eventsOf s.regs p } := by
  induction p generalizing s with
  | nil => simp [State.performAll, regsAfter, eventsOf]
  | cons m ms ih =>
    cases m <;> simp [State.performAll, State.perform, State.emit, regsAfter, eventsOf, ih, Regs.writeEvent]

theorem runRequest_eq (s : State) (p : List Micro) (c : Byte) :
    s.runRequest p c = s.completed (regsAfter s.regs p) (eventsOf s.regs p) c := by
  simp [State.runRequest, State.runToEnd, State.accept, State.finish, State.completed, performAll_eq]

theorem regsAfter_append (r : Regs) (p q : List Micro) :
    regsAfter r (p ++ q) = regsAfter (regsAfter r p) q := by
  induction p generalizing r with
  | nil => rfl
  | cons m ms ih => cases m <;> simp [regsAfter, ih]

theorem eventsOf_append (r : Regs) (p q : List Micro) :
    eventsOf r (p ++ q) = eventsOf r p ++ eventsOf (regsAfter r p) q := by
  induction p generalizing r with
  | nil => rfl
  | cons m ms ih => cases m <;> simp [regsAfter, eventsOf, ih]

theorem performAll_append (s : State) (p q : List Micro) :
    s.performAll (p ++ q) = (s.performAll p).performAll q := by
  induction p generalizing s with
  | nil => rfl
  | cons m ms ih => simp [State.performAll, ih]

/-- An admitted request completes; a request that is not admitted is refused `NotBegun`. -/
theorem whenBegun_eq (s : State) (p : List Micro) (c : Byte) :
    s.whenBegun p c =
      .next (if s.regs.begun then s.completed (regsAfter s.regs p) (eventsOf s.regs p) c else s.refuse .notBegun) := by
  unfold State.whenBegun
  split <;> simp [runRequest_eq, *]

@[simp] theorem regsAfter_pulseEnable (r : Regs) (v : Byte) : regsAfter r (pulseEnable v) = r := rfl
@[simp] theorem regsAfter_write4bits (r : Regs) (v : Byte) : regsAfter r (write4bits v) = r := rfl
@[simp] theorem regsAfter_send (r : Regs) (v m : Byte) : regsAfter r (send v m) = r := rfl
@[simp] theorem regsAfter_command (r : Regs) (v : Byte) : regsAfter r (command v) = r := rfl
@[simp] theorem regsAfter_writeData (r : Regs) (v : Byte) : regsAfter r (writeData v) = r := rfl

@[simp] theorem eventsOf_pulseEnable (r : Regs) (v : Byte) : eventsOf r (pulseEnable v) = r.pulseTrace v := rfl

@[simp] theorem eventsOf_write4bits (r : Regs) (v : Byte) : eventsOf r (write4bits v) = r.nibbleTrace v := rfl

theorem eventsOf_send_nibbles (r : Regs) (v m : Byte) :
    eventsOf r (send v m) =
      r.nibbleTrace ((v &&& 0xF0#8) ||| m) ++ r.nibbleTrace (((v <<< 4) &&& 0xF0#8) ||| m) := by
  simp [send, eventsOf_append]

/-- Forcing EN low does not change a nibble byte whose EN is clear. -/
theorem enable_low (x bl : Byte) (h : x &&& 0x04#8 = 0#8) : (x &&& 0xFB#8) ||| bl = x ||| bl := by
  have : x &&& 0xFB#8 = x := by revert h; revert x; decide
  rw [this]

/-- EN and the backlight bit are OR-ed in either order. -/
theorem enable_high (x bl : Byte) : (x ||| 0x04#8) ||| bl = (x ||| bl) ||| 0x04#8 := by
  rw [BitVec.or_assoc, BitVec.or_comm 0x04#8 bl, ← BitVec.or_assoc]

/-- The nibble trace of a byte with EN clear: `v, v, v|EN, v` (R111). -/
theorem nibbleTrace_of_low (r : Regs) (v : Byte) (h : v &&& 0x04#8 = 0#8) :
    r.nibbleTrace v =
      [r.writeEvent (v ||| r.backlightMask), r.writeEvent (v ||| r.backlightMask), .wait 1,
        r.writeEvent (v ||| r.backlightMask ||| 0x04#8), .wait 1, r.writeEvent (v ||| r.backlightMask), .wait 40] := by
  simp only [Regs.nibbleTrace, Regs.pulseTrace, enable_low v _ h, enable_high]

/-- `send` with a mode that leaves EN clear has the trace of R120. -/
theorem eventsOf_send (r : Regs) (v m : Byte) (h : m = 0x00#8 ∨ m = 0x01#8) :
    eventsOf r (send v m) = r.sendTrace v m := by
  have hi : ((v &&& 0xF0#8) ||| m) &&& 0x04#8 = 0#8 := by
    rcases h with rfl | rfl <;> (revert v; decide)
  have lo : (((v <<< 4) &&& 0xF0#8) ||| m) &&& 0x04#8 = 0#8 := by
    rcases h with rfl | rfl <;> (revert v; decide)
  rw [eventsOf_send_nibbles, nibbleTrace_of_low r _ hi, nibbleTrace_of_low r _ lo]
  rfl

@[simp] theorem eventsOf_command (r : Regs) (v : Byte) : eventsOf r (command v) = r.commandTrace v :=
  eventsOf_send r v _ (.inl rfl)

@[simp] theorem eventsOf_writeData (r : Regs) (v : Byte) : eventsOf r (writeData v) = r.dataTrace v :=
  eventsOf_send r v _ (.inr rfl)

section Congr
variable {r q : Regs} (ha : r.i2cAddr = q.i2cAddr) (hb : r.backlight = q.backlight)
include ha hb

/-- A trace depends on no register but the bus address and the backlight (R100). -/
theorem sendTrace_congr (v m : Byte) : r.sendTrace v m = q.sendTrace v m := by
  simp [Regs.sendTrace, Regs.writeEvent, Regs.backlightMask, ha, hb]

theorem commandTrace_congr (v : Byte) : r.commandTrace v = q.commandTrace v := sendTrace_congr ha hb v _

theorem dataTrace_congr (v : Byte) : r.dataTrace v = q.dataTrace v := sendTrace_congr ha hb v _

theorem nibbleTrace_congr (v : Byte) : r.nibbleTrace v = q.nibbleTrace v := by
  simp [Regs.nibbleTrace, Regs.pulseTrace, Regs.writeEvent, Regs.backlightMask, ha, hb]

end Congr

@[simp] theorem regsAfter_sendDisplayControl (r : Regs) (v : Byte) :
    regsAfter r (sendDisplayControl v) = { r with displayControl := v } := rfl

@[simp] theorem eventsOf_sendDisplayControl (r : Regs) (v : Byte) :
    eventsOf r (sendDisplayControl v) = r.commandTrace (0x08#8 ||| v) := by
  simp only [sendDisplayControl, eventsOf, eventsOf_command]
  exact commandTrace_congr rfl rfl _

@[simp] theorem regsAfter_sendEntryMode (r : Regs) (v : Byte) :
    regsAfter r (sendEntryMode v) = { r with displayMode := v } := rfl

@[simp] theorem eventsOf_sendEntryMode (r : Regs) (v : Byte) :
    eventsOf r (sendEntryMode v) = r.commandTrace (0x04#8 ||| v) := by
  simp only [sendEntryMode, eventsOf, eventsOf_command]
  exact commandTrace_congr rfl rfl _

@[simp] theorem regsAfter_refreshBacklight (r : Regs) (on : Bool) :
    regsAfter r (refreshBacklight on) = { r with backlight := on } := rfl

@[simp] theorem eventsOf_refreshBacklight (r : Regs) (on : Bool) :
    eventsOf r (refreshBacklight on) = [.busWrite r.i2cAddr (if on then 0x08#8 else 0x00#8)] := by
  cases on <;> simp [refreshBacklight, eventsOf, Regs.store, Regs.writeEvent, Regs.backlightMask, maskBL]

@[simp] theorem regsAfter_clsLines (r : Regs) : regsAfter r clsLines = r := rfl

@[simp] theorem eventsOf_clsLines (r : Regs) : eventsOf r clsLines = r.commandTrace 0x01#8 ++ [.wait 2000] := by
  rw [clsLines, eventsOf_append, eventsOf_command]
  rfl

@[simp] theorem regsAfter_homeLines (r : Regs) : regsAfter r homeLines = r := rfl

@[simp] theorem eventsOf_homeLines (r : Regs) : eventsOf r homeLines = r.commandTrace 0x02#8 ++ [.wait 2000] := by
  rw [homeLines, eventsOf_append, eventsOf_command]
  rfl

@[simp] theorem regsAfter_glyphLines (r : Regs) (g : Glyph) : regsAfter r (glyphLines g) = r := rfl

@[simp] theorem eventsOf_glyphLines (r : Regs) (g : Glyph) :
    eventsOf r (glyphLines g) = g.rows.flatMap r.dataTrace := by
  simp only [glyphLines, Glyph.rows, List.flatMap_cons, List.flatMap_nil, eventsOf_append, regsAfter_writeData,
    eventsOf_writeData, eventsOf]

end Sys2Proof.Machine
end

