-- ==== Sys2Proof/Laws/Exec.lean ====
section
/-! SUPPORT. What `exec` can do, said once: it refuses a request or completes it, with the lines and the count of that
request. -/

namespace Sys2Proof.Machine

/-- The lines of a request, taken with these registers. -/
def requestLines (r : Regs) : Instr → List Micro
  | .begin columns rows dotsize => beginLines columns rows dotsize
  | .cls => clsLines
  | .home => homeLines
  | .locate column row => r.locateLines column row
  | .displayOn => sendDisplayControl (r.displayControl ||| 0x04#8)
  | .displayOff => sendDisplayControl (r.displayControl &&& 0xFB#8)
  | .cursorOn => sendDisplayControl (r.displayControl ||| 0x02#8)
  | .cursorOff => sendDisplayControl (r.displayControl &&& 0xFD#8)
  | .blinkOn => sendDisplayControl (r.displayControl ||| 0x01#8)
  | .blinkOff => sendDisplayControl (r.displayControl &&& 0xFE#8)
  | .scrollLeft => command 0x18#8
  | .scrollRight => command 0x1C#8
  | .leftToRight => sendEntryMode (r.displayMode ||| 0x02#8)
  | .rightToLeft => sendEntryMode (r.displayMode &&& 0xFD#8)
  | .autoscrollOn => sendEntryMode (r.displayMode ||| 0x01#8)
  | .autoscrollOff => sendEntryMode (r.displayMode &&& 0xFE#8)
  | .backlightOn => refreshBacklight true
  | .backlightOff => refreshBacklight false
  | .create location charmap => command (cgramCommand location) ++ glyphLines charmap
  | .char column row c => r.locateLines column row ++ writeData c
  | .write value => writeData value

/-- The response of a completed request (R78). -/
def requestCount : Instr → Byte
  | .write _ => 0x01#8
  | _ => 0x00#8

/-- Why a request is refused, if it is (R201). -/
def refusalOf (r : Regs) : Instr → Option RefusalReason
  | .begin _ rows _ => if rows = 0#8 then some .badGeometry else none
  | _ => if r.begun then none else some .notBegun

/-- The state a request ends in. -/
def outcomeOf (i : Instr) (s : State) : State :=
  match refusalOf s.regs i with
  | some reason => s.refuse reason
  | none =>
    s.completed (regsAfter s.regs (requestLines s.regs i)) (eventsOf s.regs (requestLines s.regs i)) (requestCount i)

theorem admit_outcome (s : State) (p : List Micro) (c : Byte) :
    s.whenBegun p c = .next (match (if s.regs.begun then none else some RefusalReason.notBegun) with
      | some reason => s.refuse reason
      | none => s.completed (regsAfter s.regs p) (eventsOf s.regs p) c) := by
  rw [whenBegun_eq]
  split <;> rfl

/-- Every request answers a next state: refused or completed. -/
theorem exec_eq (i : Instr) (s : State) : exec i s = .next (outcomeOf i s) := by
  cases i with
  | begin columns rows dotsize =>
    by_cases h : rows = 0#8 <;>
      simp [exec, execBegin, outcomeOf, refusalOf, h, runRequest_eq, requestLines, requestCount]
  | _ => exact admit_outcome s _ _

/-- A request refused or completed: nothing else can happen. -/
theorem exec_cases {i : Instr} {s t : State} (h : exec i s = .next t) :
    (∃ reason, refusalOf s.regs i = some reason ∧ t = s.refuse reason) ∨
    (refusalOf s.regs i = none ∧
      t = s.completed (regsAfter s.regs (requestLines s.regs i)) (eventsOf s.regs (requestLines s.regs i))
        (requestCount i)) := by
  rw [exec_eq] at h
  obtain rfl : outcomeOf i s = t := by injection h
  unfold outcomeOf
  split <;> simp_all

end Sys2Proof.Machine
end

