-- ==== Sys2Proof/Laws/Decode.lean ====
section
/-! SUPPORT. The words of a request, how the port is read, and what a step can do, said once. -/

namespace Sys2Proof

theorem op_wordOf (o a b c : Byte) : Word.op (wordOf o a b c) = o := by
  unfold Word.op wordOf; ext i hi; simp; grind

theorem a_wordOf (o a b c : Byte) : Word.a (wordOf o a b c) = a := by
  unfold Word.a wordOf; ext i hi; simp; grind

theorem b_wordOf (o a b c : Byte) : Word.b (wordOf o a b c) = b := by
  unfold Word.b wordOf; ext i hi; simp; grind

theorem c_wordOf (o a b c : Byte) : Word.c (wordOf o a b c) = c := by
  unfold Word.c wordOf; ext i hi; simp; grind

namespace Machine

theorem displayVariant_eq (a : Byte) : displayVariant a = displayVariants[a.toNat]? := by
  revert a; decide

theorem portWords_append (ws : List Word) (l : List HostInput) :
    portWords (ws.map .word ++ l) = ws ++ portWords l := by
  induction ws with
  | nil => rfl
  | cons w ws ih => simp [portWords, ih]

/-- Words after a request do not change how it is decoded (R85). -/
theorem decode_append {ws : List Word} {i : Instr} (later : List Word) (h : decode ws = .ok (i, [])) :
    decode (ws ++ later) = .ok (i, later) := by
  cases ws with
  | nil => simp [decode] at h
  | cons w ws =>
    simp only [List.cons_append, decode] at h ⊢
    split at h <;> rename_i ho
    all_goals try (simp only [Except.ok.injEq, Prod.mk.injEq] at h; obtain ⟨rfl, rfl⟩ := h; simp)
    · split at h
      · simp only [Except.ok.injEq, Prod.mk.injEq] at h; obtain ⟨rfl, rfl⟩ := h; simp [*]
      · simp at h
    · match ws, h with
      | x0 :: x1 :: r, h => simp [decodeCreate] at h; simp [h.2, ← h.1, decodeCreate]
      | [], h => simp [decodeCreate] at h
      | [x], h => simp [decodeCreate] at h
    · simp at h

/-- An idle block whose port begins with the words of a request takes exactly those words. -/
theorem fetch_request {s : State} {i : Instr} {ws : List Word} {later : List HostInput} (hp : s.phase = .idle)
    (hi : s.input = ws.map .word ++ later) (hd : decode ws = .ok (i, [])) :
    s.fetch = .request i { s with reqWord := ws.headD 0#32, input := later } := by
  cases ws with
  | nil => simp [decode] at hd
  | cons w ws =>
    have h1 := decode_append (portWords later) hd
    have h2 := portWords_append (w :: ws) later
    simp only [State.fetch, hp, hi, List.map_cons, List.cons_append, State.fetchIdle]
    rw [← List.cons_append, ← List.map_cons, h2, h1]
    simp only [State.take, hi, h2, List.length_append, List.length_cons]
    rw [show ws.length + 1 + (portWords later).length - (portWords later).length = ws.length + 1 by omega]
    simp [hp]

/-- Where a fetch leads: the state it went to, or the outcome of the request it found, under a reset if the host asserts
one. -/
def stateAfter : Fetched → State
  | .settled t => t
  | .request i t => t.underReset (outcomeOf i t)

/-- Every step answers a next state. -/
theorem step_eq (s : State) : step s = .next (stateAfter s.fetch) := by
  unfold step
  cases s.fetch <;> simp [exec_eq, State.settle, stateAfter]

end Machine

end Sys2Proof
end

