-- ==== Sys2Proof/Laws/PerInstr.lean ====
section
/-! SUPPORT. A statement about every request as syntax, one lemma per constructor: it is encoded in as many words as the `op` of
its head word tells (R85). -/

namespace Sys2Proof.Laws.EncodedLength

def Statement (i : Instr) : Prop :=
  (encode i).length = requestLength (Word.op ((encode i).headD 0#32))

theorem headLength {op a b c : Byte} (h : op ≠ 0x06#8) : requestLength (Word.op (wordOf op a b c)) = 1 := by
  have : Word.op (wordOf op a b c) = op := by unfold Word.op wordOf; ext i hi; simp; grind
  rw [this, requestLength, if_neg h]

theorem begin (columns rows dotsize : Byte) : Statement (.begin columns rows dotsize) := (headLength (by decide)).symm
theorem cls : Statement .cls := (headLength (by decide)).symm
theorem home : Statement .home := (headLength (by decide)).symm
theorem locate (column row : Byte) : Statement (.locate column row) := (headLength (by decide)).symm
theorem displayOn : Statement .displayOn := (headLength (by decide)).symm
theorem displayOff : Statement .displayOff := (headLength (by decide)).symm
theorem cursorOn : Statement .cursorOn := (headLength (by decide)).symm
theorem cursorOff : Statement .cursorOff := (headLength (by decide)).symm
theorem blinkOn : Statement .blinkOn := (headLength (by decide)).symm
theorem blinkOff : Statement .blinkOff := (headLength (by decide)).symm
theorem scrollLeft : Statement .scrollLeft := (headLength (by decide)).symm
theorem scrollRight : Statement .scrollRight := (headLength (by decide)).symm
theorem leftToRight : Statement .leftToRight := (headLength (by decide)).symm
theorem rightToLeft : Statement .rightToLeft := (headLength (by decide)).symm
theorem autoscrollOn : Statement .autoscrollOn := (headLength (by decide)).symm
theorem autoscrollOff : Statement .autoscrollOff := (headLength (by decide)).symm
theorem backlightOn : Statement .backlightOn := (headLength (by decide)).symm
theorem backlightOff : Statement .backlightOff := (headLength (by decide)).symm

theorem create (location : Byte) (charmap : Glyph) : Statement (.create location charmap) := by
  have : Word.op (wordOf 0x06#8 location 0#8 0#8) = 0x06#8 := by unfold Word.op wordOf; ext i hi; simp; grind
  simp [Statement, encode, requestLength, this]

theorem char (column row c : Byte) : Statement (.char column row c) := (headLength (by decide)).symm
theorem write (value : Byte) : Statement (.write value) := (headLength (by decide)).symm

end Sys2Proof.Laws.EncodedLength
end

