-- ==== Sys2Proof/Tests/Slice0.lean ====
section
/-! SUPPORT. Tests: expected results are those of 95_test_vectors.md (the vector is named) or of the encoding tables of
30_encoding.md; and one witness for the hypotheses of each statement that has any. -/

namespace Sys2Proof.Tests

open Sys2Proof.Machine

/-- The state `S16x2` of 95_test_vectors.md, with a bus address of the tests' own. -/
def regs16x2 : Regs :=
  { i2cAddr := 0x27#7, columns := 16#8, rows := 2#8, dotsize := 0#8, displayFunction := 0x08#8,
    displayControl := 0x04#8, displayMode := 0x02#8, backlight := false,
    rowOffset := ⟨0x00#8, 0x40#8, 0x10#8, 0x50#8⟩, begun := true }

def withRegs (r : Regs) : State :=
  { regs := r, phase := .idle, input := [], reqWord := 0#32, trace := [], responses := [], refusals := [] }

def s16x2 : State := withRegs regs16x2

def s20x4 : State :=
  withRegs { regs16x2 with columns := 20#8, rows := 4#8, rowOffset := ⟨0x00#8, 0x40#8, 0x14#8, 0x54#8⟩ }

/-- The register values of `RESET`, with the tests' bus address. -/
def fresh : State :=
  withRegs { i2cAddr := 0x27#7, columns := 0#8, rows := 0#8, dotsize := 0#8, displayFunction := 0#8,
             displayControl := 0#8, displayMode := 0#8, backlight := false,
             rowOffset := ⟨0#8, 0#8, 0#8, 0#8⟩, begun := false }

def lit (s : State) : State := { s with regs := { s.regs with backlight := true } }

def feed (s : State) (l : List HostInput) : State := { s with input := l }

def nextOf : Host.Outcome State Fault Refusal → Option State
  | .next s => some s
  | .fault _ => none
  | .refused _ => none

/-- The events a request emits in a state. -/
def eventsIn (i : Instr) (s : State) : Option (List Event) := (nextOf (exec i s)).map s.eventsSince

def w (b : Byte) : Event := .busWrite 0x27#7 b

/-- `N[b]` of 95_test_vectors.md section 0. -/
def nib (b : Byte) : List Event := [w b, w b, .wait 1, w (b ||| 0x04#8), .wait 1, w b, .wait 40]

/-! ### Well-formedness -/

theorem test_ill_formed_begin : (Instr.begin 16#8 0#8 0#8).wellFormed = false := by decide
theorem test_well_formed_begin : (Instr.begin 0#8 1#8 0xFF#8).wellFormed = true := by decide

/-! ### Decoding: words written out from the tables of 30_encoding.md (R70 to R74, R83) -/

theorem test_decode_begin : decode [0x01100200#32] = .ok (.begin 16#8 2#8 0#8, []) := by decide
theorem test_decode_cls : decode [0x02ABCDEF#32] = .ok (.cls, []) := by decide
theorem test_decode_home : decode [0x03FFFFFF#32] = .ok (.home, []) := by decide
theorem test_decode_locate : decode [0x04050399#32] = .ok (.locate 5#8 3#8, []) := by decide
theorem test_decode_displayOn : decode [0x05000000#32] = .ok (.displayOn, []) := by decide
theorem test_decode_displayOff : decode [0x05010000#32] = .ok (.displayOff, []) := by decide
theorem test_decode_cursorOn : decode [0x05020000#32] = .ok (.cursorOn, []) := by decide
theorem test_decode_cursorOff : decode [0x05030000#32] = .ok (.cursorOff, []) := by decide
theorem test_decode_blinkOn : decode [0x05040000#32] = .ok (.blinkOn, []) := by decide
theorem test_decode_blinkOff : decode [0x05050000#32] = .ok (.blinkOff, []) := by decide
theorem test_decode_scrollLeft : decode [0x05060000#32] = .ok (.scrollLeft, []) := by decide
theorem test_decode_scrollRight : decode [0x05070000#32] = .ok (.scrollRight, []) := by decide
theorem test_decode_leftToRight : decode [0x05080000#32] = .ok (.leftToRight, []) := by decide
theorem test_decode_rightToLeft : decode [0x05090000#32] = .ok (.rightToLeft, []) := by decide
theorem test_decode_autoscrollOn : decode [0x050A0000#32] = .ok (.autoscrollOn, []) := by decide
theorem test_decode_autoscrollOff : decode [0x050B0000#32] = .ok (.autoscrollOff, []) := by decide
theorem test_decode_backlightOn : decode [0x050C0000#32] = .ok (.backlightOn, []) := by decide
theorem test_decode_backlightOff : decode [0x050D1234#32] = .ok (.backlightOff, []) := by decide
theorem test_decode_create : decode [0x0603FFFF#32, 0x01020304#32, 0x05060708#32] =
    .ok (.create 3#8 ⟨1#8, 2#8, 3#8, 4#8, 5#8, 6#8, 7#8, 8#8⟩, []) := by decide
theorem test_decode_char : decode [0x07000041#32] = .ok (.char 0#8 0#8 0x41#8, []) := by decide
theorem test_decode_write : decode [0x08417777#32] = .ok (.write 0x41#8, []) := by decide

/-- The two extension words are no `BEGIN` and no `CLS` (VX). -/
theorem test_decode_create_takes_three : decode [0x06000000#32, 0x01100200#32, 0x02000000#32] =
    .ok (.create 0#8 ⟨0x01#8, 0x10#8, 0x02#8, 0x00#8, 0x02#8, 0x00#8, 0x00#8, 0x00#8⟩, []) := by decide
theorem test_decode_reserved_zero : decode [0x00000000#32] = .error .reservedOpcode := by decide
theorem test_decode_reserved_nine : decode [0x09000000#32] = .error .reservedOpcode := by decide
theorem test_decode_reserved_top : decode [0xFFFFFFFF#32] = .error .reservedOpcode := by decide
theorem test_decode_reserved_mode : decode [0x050E0000#32] = .error .reservedMode := by decide
theorem test_decode_reserved_mode_top : decode [0x05FF0000#32] = .error .reservedMode := by decide
theorem test_encode_create : encode (.create 1#8 ⟨0#8, 10#8, 31#8, 31#8, 14#8, 4#8, 0#8, 0#8⟩) =
    [0x06010000#32, 0x000A1F1F#32, 0x0E040000#32] := by decide
theorem test_table_word : decodeTableWord 32 0x050C0000 = some .backlightOn := by decide

/-! ### Micro-operations -/

/-- S2, third row: EN set in the operand makes no difference. -/
theorem test_pulse_enable : (s16x2.performAll (pulseEnable 0x35#8)).trace =
    [w 0x31#8, .wait 1, w 0x35#8, .wait 1, w 0x31#8, .wait 40] := by decide
/-- VN. -/
theorem test_write4bits : ((lit s16x2).performAll (write4bits 0x20#8)).trace = nib 0x28#8 := by decide
/-- S1: the low nibble moves up, with mode RS and the backlight on. -/
theorem test_send : ((lit s16x2).performAll (send 0xA5#8 0x01#8)).trace = nib 0xA9#8 ++ nib 0x59#8 := by decide
/-- VE: OR cannot clear a bit. -/
theorem test_expander_write : (s16x2.performAll [.expanderWrite 0x08#8]).trace = [w 0x08#8] := by decide

/-! ### Requests, one step each -/

set_option maxRecDepth 20000 in
/-- VB1, the trace. -/
theorem test_begin_trace : eventsIn (.begin 16#8 2#8 0#8) fresh = some
    ([.wait 50000] ++ nib 0x30#8 ++ [.wait 4500] ++ nib 0x30#8 ++ [.wait 4500] ++ nib 0x30#8 ++ [.wait 150] ++
      nib 0x20#8 ++ nib 0x20#8 ++ nib 0x80#8 ++ nib 0x00#8 ++ nib 0xC0#8 ++ nib 0x00#8 ++ nib 0x10#8 ++
      [.wait 2000] ++ nib 0x00#8 ++ nib 0x60#8 ++ nib 0x00#8 ++ nib 0x20#8 ++ [.wait 2000]) := by decide
/-- VB7: a second `BEGIN` keeps the backlight and resets the toggles. -/
theorem test_begin_again : (nextOf (exec (.begin 20#8 4#8 0#8) (withRegs { regs16x2 with
      displayControl := 0x06#8, displayMode := 0x00#8, backlight := true }))).map (·.regs) =
    some { s20x4.regs with backlight := true } := by decide
/-- VB4 and VB6: the 5x10 flag with one row only; the last table entry wraps. -/
theorem test_begin_function_flags :
    functionFlags 1#8 4#8 = 0x04#8 ∧ functionFlags 2#8 4#8 = 0x08#8 ∧ functionFlags 1#8 0#8 = 0x00#8 := by decide
theorem test_begin_table_wraps : (nextOf (exec (.begin 200#8 4#8 0#8) fresh)).map (·.regs.rowOffset) =
    some ⟨0x00#8, 0x40#8, 0xC8#8, 0x08#8⟩ := by decide

/-- VA. -/
theorem test_cls : eventsIn .cls (lit s16x2) = some (nib 0x08#8 ++ nib 0x18#8 ++ [.wait 2000]) := by decide
theorem test_home : eventsIn .home s16x2 = some (nib 0x00#8 ++ nib 0x20#8 ++ [.wait 2000]) := by decide
/-- VA: the sum wraps; S3: a row past the display clamps to its last. -/
theorem test_locate_wraps : eventsIn (.locate 200#8 1#8) s16x2 = some (nib 0x80#8 ++ nib 0x80#8) := by decide
theorem test_locate_clamps : eventsIn (.locate 0#8 255#8) s16x2 = some (nib 0xC0#8 ++ nib 0x00#8) := by decide
/-- S3: `BEGIN 20, 6`, row 5 clamps to the table's last entry. -/
theorem test_locate_table_bound : (withRegs { s20x4.regs with rows := 6#8 }).regs.ddramCommand 0#8 5#8 = 0xD4#8 := by
  decide

/-- VM, row by row. -/
theorem test_displayOn : eventsIn .displayOn s16x2 = some (nib 0x00#8 ++ nib 0xC0#8) := by decide
theorem test_displayOff : eventsIn .displayOff s16x2 = some (nib 0x00#8 ++ nib 0x80#8) := by decide
/-- S5: the cursor and blink bits travel with the byte. -/
theorem test_displayOff_keeps : (nextOf (exec .displayOff (withRegs { regs16x2 with displayControl := 0x07#8 }))).map
    (fun t => (t.regs.displayControl, sentBytes t.trace)) = some (0x03#8, [(false, 0x0B#8)]) := by decide
theorem test_cursorOn : eventsIn .cursorOn s16x2 = some (nib 0x00#8 ++ nib 0xE0#8) := by decide
theorem test_cursorOff : eventsIn .cursorOff s16x2 = some (nib 0x00#8 ++ nib 0xC0#8) := by decide
theorem test_blinkOn : eventsIn .blinkOn s16x2 = some (nib 0x00#8 ++ nib 0xD0#8) := by decide
theorem test_blinkOff : eventsIn .blinkOff s16x2 = some (nib 0x00#8 ++ nib 0xC0#8) := by decide
theorem test_scrollLeft : eventsIn .scrollLeft s16x2 = some (nib 0x10#8 ++ nib 0x80#8) := by decide
theorem test_scrollRight : eventsIn .scrollRight s16x2 = some (nib 0x10#8 ++ nib 0xC0#8) := by decide
theorem test_leftToRight : eventsIn .leftToRight s16x2 = some (nib 0x00#8 ++ nib 0x60#8) := by decide
theorem test_rightToLeft : (nextOf (exec .rightToLeft s16x2)).map (fun t => (t.regs.displayMode, t.trace)) =
    some (0x00#8, nib 0x00#8 ++ nib 0x40#8) := by decide
theorem test_autoscrollOn : (nextOf (exec .autoscrollOn s16x2)).map (fun t => (t.regs.displayMode, t.trace)) =
    some (0x03#8, nib 0x00#8 ++ nib 0x70#8) := by decide
theorem test_autoscrollOff : eventsIn .autoscrollOff s16x2 = some (nib 0x00#8 ++ nib 0x60#8) := by decide
theorem test_backlightOn : (nextOf (exec .backlightOn s16x2)).map (fun t => (t.regs.backlight, t.trace)) =
    some (true, [w 0x08#8]) := by decide
theorem test_backlightOff : (nextOf (exec .backlightOff (lit s16x2))).map (fun t => (t.regs.backlight, t.trace)) =
    some (false, [w 0x00#8]) := by decide

set_option maxRecDepth 20000 in
/-- VA: `CREATE 9` writes slot 1; the response is 0. -/
theorem test_create : (nextOf (exec (.create 9#8 ⟨0x00#8, 0x0A#8, 0x1F#8, 0x1F#8, 0x0E#8, 0x04#8, 0x00#8, 0x00#8⟩)
      s16x2)).map (fun t => (sentBytes t.trace, t.responses)) =
    some ([(false, 0x48#8), (true, 0x00#8), (true, 0x0A#8), (true, 0x1F#8), (true, 0x1F#8), (true, 0x0E#8),
      (true, 0x04#8), (true, 0x00#8), (true, 0x00#8)], [0#8]) := by decide
/-- VA: `CHAR 15, 9, 0x7E`. -/
theorem test_char : eventsIn (.char 15#8 9#8 0x7E#8) s16x2 =
    some (nib 0xC0#8 ++ nib 0xF0#8 ++ nib 0x71#8 ++ nib 0xE1#8) := by decide
/-- VD: `WRITE 'H'` responds 1; `WRITE 0xDD`. -/
theorem test_write : (nextOf (exec (.write 0x48#8) s16x2)).map (fun t => (t.trace, t.responses)) =
    some (nib 0x41#8 ++ nib 0x81#8, [1#8]) := by decide
theorem test_write_DD : eventsIn (.write 0xDD#8) s16x2 = some (nib 0xD1#8 ++ nib 0xD1#8) := by decide

/-! ### The step: refusals (VR), reset (VT), reset inside a request (R221) -/

/-- What a step shows: the registers, the trace, the responses, the marks and the port. -/
structure Seen where
  regs : Regs
  trace : List Event
  responses : List Byte
  refusals : List RefusalMark
  input : List HostInput
  deriving DecidableEq, Repr

def outcome (s : State) : Option Seen :=
  (nextOf (step s)).map (fun t => ⟨t.regs, t.trace, t.responses, t.refusals, t.input⟩)

theorem test_VR1 : outcome (feed fresh [.word 0x02000000#32]) =
    some ⟨fresh.regs, [], [0#8], [⟨.notBegun, 0x02000000#32⟩], []⟩ := by decide
theorem test_VR3 : outcome (feed fresh [.word 0x050E0000#32]) =
    some ⟨fresh.regs, [], [0#8], [⟨.illegalRequest, 0x050E0000#32⟩], []⟩ := by decide
theorem test_VR5 : outcome (feed s16x2 [.word 0x01100000#32]) =
    some ⟨regs16x2, [], [0#8], [⟨.badGeometry, 0x01100000#32⟩], []⟩ := by decide
theorem test_VR7 : outcome (feed fresh [.word 0x08410000#32, .word 0x01100200#32]) =
    some ⟨fresh.regs, [], [0#8], [⟨.notBegun, 0x08410000#32⟩], [.word 0x01100200#32]⟩ := by decide
theorem test_VT : (nextOf (step (feed (lit s16x2) [.reset]))).map (fun t => (t.regs.backlight, t.regs.begun, t.trace)) =
    some (false, false, []) := by decide
theorem test_reset_inside : (nextOf (step (feed s16x2 [.word 0x02000000#32, .resetDuring 3]))).map
    (fun t => (t.trace, t.regs.begun, t.responses, t.input)) =
    some ([w 0x00#8, w 0x00#8, .wait 1, w 0x04#8], false, [], []) := by decide
theorem test_fetch_word : (nextOf (step (s16x2.withFetchWord 32 0x050C0000))).map (fun t => (t.trace, t.input)) =
    some ([w 0x08#8], []) := by decide
theorem test_first_request_after_reset : (nextOf (step (State.reset.withFetchWord 32 0x01100200))).map
    (fun t => (t.regs.begun, t.regs.rows, t.refusals)) = some (true, 2#8, []) := by decide

/-! ### Witnesses: the hypotheses of each statement are met -/

theorem witness_DecoderReadsEveryHeadWord :
    Word.op 0x01000000#32 = 0x01#8 ∧ Word.op 0x02000000#32 = 0x02#8 ∧ Word.op 0x03000000#32 = 0x03#8 ∧
    Word.op 0x04000000#32 = 0x04#8 ∧
    (Word.op 0x05000000#32 = 0x05#8 ∧ displayVariants[(Word.a 0x05000000#32).toNat]? = some .displayOn) ∧
    (Word.op 0x050D0000#32 = 0x05#8 ∧ displayVariants[(Word.a 0x050D0000#32).toNat]? = some .backlightOff) ∧
    Word.op 0x06000000#32 = 0x06#8 ∧ Word.op 0x07000000#32 = 0x07#8 ∧ Word.op 0x08000000#32 = 0x08#8 ∧
    reservedWord 0x00FFFFFF#32 ∧ reservedWord 0x09000000#32 ∧ reservedWord 0xFF000000#32 ∧
    reservedWord 0x050E0000#32 ∧ reservedWord 0x05FF0000#32 := by
  unfold reservedWord; decide

theorem witness_CreateExtensionWords : Word.op 0x06000000#32 = 0x06#8 ∧ s16x2.regs.begun = true := by decide

theorem witness_LengthFromOpcodeAlone :
    decode [0x02000000#32, 0x03000000#32] = .ok (.cls, [0x03000000#32]) ∧
    decode [0x06000000#32, 1#32, 2#32] = .ok (.create 0#8 ⟨0#8, 0#8, 0#8, 1#8, 0#8, 0#8, 0#8, 2#8⟩, []) := by decide

theorem witness_UnusedFieldsAreIgnored :
    Word.op 0x04050399#32 = Word.op 0x04050300#32 ∧ Word.a 0x04050399#32 = Word.a 0x04050300#32 ∧
    Word.b 0x04050399#32 = Word.b 0x04050300#32 ∧ (usedFields (Word.op 0x04050300#32)).2.2 = false ∧
    (encode .cls).head? = some 0x02000000#32 ∧ (usedFields (Word.op 0x02000000#32)).1 = false := by decide

theorem witness_ReservedWordIsDropped :
    (feed s16x2 [.word 0x050E0000#32]).phase = .idle ∧
    (feed s16x2 [.word 0x050E0000#32]).input = .word 0x050E0000#32 :: [] ∧ reservedWord 0x050E0000#32 := by
  unfold reservedWord; decide

theorem witness_StepRunsTheDecodedRequest :
    (feed s16x2 [.word 0x02000000#32, .word 0x03000000#32]).phase = .idle ∧
    (feed s16x2 [.word 0x02000000#32, .word 0x03000000#32]).input =
      [0x02000000#32].map .word ++ [.word 0x03000000#32] ∧
    decode [0x02000000#32] = .ok (.cls, []) ∧ runsUndisturbed [.word 0x03000000#32] :=
  ⟨rfl, rfl, by decide, fun _ _ h => by simp at h⟩

theorem witness_IdleBlockWaits :
    (s16x2.phase = .idle ∧ s16x2.input = []) ∧
    ((feed s16x2 [.word 0x06000000#32]).phase = .idle ∧ Word.op 0x06000000#32 = 0x06#8) ∧
    (feed s16x2 [.word 0x06000000#32, .word 0#32]).phase = .idle := by decide

theorem witness_BusyBlockTakesNoWord :
    (feed (s16x2.accept clsLines 0#8) [.word 0x02000000#32]).phase = .busy 0 clsLines 0#8 ∧
    runsUndisturbed (feed (s16x2.accept clsLines 0#8) [.word 0x02000000#32]).input ∧ runsUndisturbed [] :=
  ⟨rfl, fun _ _ h => by simp [feed] at h, fun _ _ h => by simp at h⟩

theorem witness_EventByEventIsAtomic :
    clsLines.any Micro.emits = true ∧ 14 < (clsLines.filter Micro.emits).length := by decide

theorem witness_StepOnlyAppends : ∃ t, step (feed s16x2 [.word 0x02000000#32]) = .next t := ⟨_, rfl⟩

theorem witness_HistoryIsNeverRead :
    s16x2.sameButHistory { s16x2 with trace := [w 0x08#8], responses := [1#8] } ∧ (∃ t, step s16x2 = .next t) ∧
    ∃ t, step { s16x2 with trace := [w 0x08#8], responses := [1#8] } = .next t :=
  ⟨⟨rfl, rfl, rfl, rfl⟩, ⟨_, rfl⟩, ⟨_, rfl⟩⟩

theorem witness_ResetBetweenRequests :
    (feed s16x2 [.reset]).phase = .idle ∧ (feed s16x2 [.reset]).input = .reset :: [] := by decide

theorem witness_ResetInsideRequest :
    (feed s16x2 [.word 0x02000000#32, .resetDuring 13]).phase = .idle ∧
    (feed s16x2 [.word 0x02000000#32, .resetDuring 13]).input = [0x02000000#32].map .word ++ .resetDuring 13 :: [] ∧
    decode [0x02000000#32] = .ok (.cls, []) ∧
    (eventsIn .cls { feed s16x2 [.resetDuring 13] with reqWord := 0x02000000#32 }).map List.length = some 15 := by
  decide

/-- The last of the 15 events of `CLS`, and a refused request, which has none. -/
theorem witness_ResetAtTheLastEvent :
    (feed s16x2 [.word 0x02000000#32, .resetDuring 14]).phase = .idle ∧
    (feed s16x2 [.word 0x02000000#32, .resetDuring 14]).input = [0x02000000#32].map .word ++ .resetDuring 14 :: [] ∧
    decode [0x02000000#32] = .ok (.cls, []) ∧
    (eventsIn .cls { feed s16x2 [.resetDuring 14] with reqWord := 0x02000000#32 }).map List.length = some 15 ∧
    (feed fresh [.word 0x02000000#32, .resetDuring 0]).phase = .idle ∧
    (feed fresh [.word 0x02000000#32, .resetDuring 0]).input = [0x02000000#32].map .word ++ .resetDuring 0 :: [] ∧
    (eventsIn .cls { feed fresh [.resetDuring 0] with reqWord := 0x02000000#32 }).map List.length = some 0 := by
  decide

theorem witness_Write4bitsTrace : 0xF1#8 &&& 0x04#8 = 0#8 := by decide

theorem witness_SendHighNibbleFirst : (0x00#8 = 0x00#8 ∨ 0x00#8 = 0x01#8) ∧ (0x01#8 = 0x00#8 ∨ 0x01#8 = 0x01#8) := by
  decide

/-- For the results of `WRITE`, `CLS`, `HOME`, `CREATE` and the `DISPLAY` variants: admitted, and not. -/
theorem witness_admitted_and_not : s16x2.regs.begun = true ∧ fresh.regs.begun = false := by decide

/-- For `LOCATE` and `CHAR`, for the clamp, and for the bytes the display gets. -/
theorem witness_rows : s16x2.regs.begun = true ∧ s16x2.regs.rows ≠ 0#8 ∧ (1#8 : Byte) ≠ 0#8 := by decide

theorem witness_AddressWithNoRowsIsFree :
    (withRegs { regs16x2 with rows := 0#8 }).regs.begun = true ∧
    (withRegs { regs16x2 with rows := 0#8 }).regs.rows = 0#8 := by decide

/-- For `BEGIN`: every row count but 0, and 0. -/
theorem witness_BeginRunsTheBringUp : (1#8 : Byte) ≠ 0#8 ∧ (255#8 : Byte) ≠ 0#8 ∧ (0#8 : Byte) = 0#8 := by decide

theorem witness_DisplayDispatch :
    (Word.op 0x050E0000#32 = 0x05#8 ∧ 13#8 < Word.a 0x050E0000#32) ∧
    (Word.op 0x050D0000#32 = 0x05#8 ∧ displayVariants[(Word.a 0x050D0000#32).toNat]? = some .backlightOff) ∧
    fresh.regs.begun = false ∧ s16x2.regs.begun = true := by decide

theorem witness_CreateMasksTheLocation : (15#8 : Byte).toNat % 8 = (255#8 : Byte).toNat % 8 := by decide

theorem witness_RefusedRequestOutcome :
    (∀ c r d, Instr.cls ≠ .begin c r d) ∧ fresh.regs.begun = false ∧
    ((feed fresh [.word 0x00000000#32]).phase = .idle ∧ reservedWord 0x00000000#32) ∧
    ∃ t, step (feed fresh [.word 0x00000000#32]) = .next t :=
  ⟨fun _ _ _ h => by simp at h, rfl, ⟨rfl, .inl (by decide)⟩, ⟨_, rfl⟩⟩

theorem witness_RefusalOrder :
    ((feed fresh [.word 0x050E0000#32]).phase = .idle ∧ Word.op 0x050E0000#32 = 0x05#8 ∧
      13#8 < Word.a 0x050E0000#32 ∧ fresh.regs.begun = false) ∧
    (∃ t, exec (.begin 16#8 0#8 0#8) fresh = .next t) ∧ ∃ t, exec .cls fresh = .next t :=
  ⟨by decide, ⟨_, rfl⟩, ⟨_, rfl⟩⟩

/-- For the statements about every request that answers: `WholeOrNotAtAll`, `RequestFrame`,
`EveryByteCarriesTheBacklight`. -/
theorem witness_requests_answer : (∃ t, exec .cls s16x2 = .next t) ∧ ∃ t, exec .cls fresh = .next t := ⟨⟨_, rfl⟩, ⟨_, rfl⟩⟩

theorem witness_RegisterWriteMatrix :
    (∃ t, exec .displayOff s16x2 = .next t) ∧ RegName.displayMode ∉ registersWritten .displayOff :=
  ⟨⟨_, rfl⟩, by decide⟩

theorem witness_StepKeepsSound : State.reset.sound ∧ ∃ t, step (State.reset.withFetchWord 32 0x01100200) = .next t :=
  ⟨⟨rfl, ⟨rfl, .inl rfl⟩, by simp [State.reset]⟩, ⟨_, rfl⟩⟩

theorem witness_StepKeepsSound_begun :
    (State.reset.withFetchWord 32 0x01100200).sound ∧
    (withRegs { regs16x2 with i2cAddr := Config.i2cAddr }).sound :=
  ⟨⟨rfl, ⟨rfl, .inl rfl⟩, by simp [State.reset, State.withFetchWord]⟩,
    ⟨rfl, ⟨rfl, .inr ⟨rfl, by decide, by decide, by decide, by decide, rfl⟩⟩, by simp [withRegs]⟩⟩

theorem witness_BroughtUpRegisters :
    s16x2.regs.broughtUp ∧ (∃ t, exec .blinkOn s16x2 = .next t) ∧ (1#8 : Byte) ≠ 0#8 :=
  ⟨⟨rfl, by decide, by decide, by decide, by decide, rfl⟩, ⟨_, rfl⟩, by decide⟩

theorem witness_EventCounts :
    s16x2.regs.accepts .cls = true ∧ fresh.regs.accepts (.begin 0#8 1#8 0#8) = true := by decide

theorem witness_DisplayGetsTheBytes :
    (∀ c r d, Instr.char 0#8 0#8 0x41#8 ≠ .begin c r d) ∧ s16x2.regs.begun = true ∧ s16x2.regs.rows ≠ 0#8 ∧
    ∃ t, exec (.char 0#8 0#8 0x41#8) s16x2 = .next t :=
  ⟨fun _ _ _ h => by simp at h, rfl, by decide, ⟨_, rfl⟩⟩

theorem witness_BeginLatchesFourteenNibbles :
    (1#8 : Byte) ≠ 0#8 ∧ ∃ t, exec (.begin 16#8 1#8 4#8) fresh = .next t := ⟨by decide, ⟨_, rfl⟩⟩

theorem witness_OnOffPairsRestore :
    s16x2.regs.begun = true ∧ s16x2.regs.displayControl &&& 0x04#8 ≠ 0#8 ∧
    s16x2.regs.displayControl &&& 0x02#8 = 0#8 ∧ s16x2.regs.displayMode &&& 0x02#8 ≠ 0#8 ∧
    s16x2.regs.displayMode &&& 0x01#8 = 0#8 := by decide

theorem witness_SecondBeginStartsAfresh :
    (4#8 : Byte) ≠ 0#8 ∧ s16x2.regs.i2cAddr = fresh.regs.i2cAddr ∧ s16x2.regs.backlight = fresh.regs.backlight := by
  decide

theorem witness_PseudoOperationsExpand : 0 < min [0x48#8, 0x65#8].length (4#8 : Byte).toNat := by decide

theorem witness_OneReservedOperand :
    s16x2.regs.begun = true ∧ (Instr.begin 1#8 1#8 1#8).wellFormed = true ∧
    (Instr.begin 16#8 0#8 0#8).wellFormed = false := by decide

/-- VP: `PRINT "Hello"` after `BEGIN 4, 1` is four requests. -/
theorem test_print : (assemblePrint 4#8 [0x48#8, 0x65#8, 0x6C#8, 0x6C#8, 0x6F#8]).flatMap encode =
    [0x08480000#32, 0x08650000#32, 0x086C0000#32, 0x086C0000#32] := by decide
/-- VX: `BEGIN 16, 1, 5x10`. -/
theorem test_assemble_begin : encode (assembleBegin none (some 1#8) (some .dots5x10)) = [0x01100104#32] := by decide

end Sys2Proof.Tests
end

namespace Sys2Proof.Machine

/-! ### What an idle fetch can lead to -/

/-- A block that lacks an extension word waits, or takes the reset the host asserts instead of giving it (log 8). -/
theorem awaitWords_cases (s : State) : s.awaitWords = s ∨ ∃ rest, s.awaitWords = s.takeReset rest := by
  unfold State.awaitWords
  split
  next => exact .inl rfl
  next rest _ => exact .inr ⟨rest, rfl⟩

/-- All an idle block can do: run a request whose words it takes, wait, take a reset, or drop a reserved word. -/
theorem fetch_idle_cases {s : State} (hp : s.phase = .idle) :
    (∃ i n, s.fetch = .request i (s.take n)) ∨ s.fetch = .settled s ∨
      (∃ rest, s.fetch = .settled (s.takeReset rest)) ∨ s.fetch = .settled ((s.take 1).refuse .illegalRequest) := by
  unfold State.fetch
  rw [hp]
  dsimp only
  split
  next rest _ => exact .inr (.inr (.inl ⟨rest, rfl⟩))
  next rest _ => exact .inr (.inr (.inl ⟨rest, rfl⟩))
  next =>
    unfold State.fetchIdle
    split
    next i rest _ => exact .inl ⟨i, _, rfl⟩
    next => exact .inr (.inl rfl)
    next => obtain h | ⟨rest, h⟩ := awaitWords_cases s <;> simp [h]
    next => exact .inr (.inr (.inr rfl))
    next => exact .inr (.inr (.inr rfl))

/-! ### Legal lines emit sound events -/

/-- A line that can only emit a sound event: RW is clear in the byte it writes (R102), and its wait is one of R5. -/
def Micro.legal : Micro → Prop
  | .setReg _ => True
  | .expanderWrite data => data &&& maskRW = 0#8
  | .delay us => us ∈ [1, 40, 50000, 4500, 150, 2000]

/-- A program of legal lines. -/
def legalProgram (p : List Micro) : Prop := ∀ m ∈ p, m.legal

@[simp] theorem legalProgram_nil : legalProgram [] := by simp [legalProgram]

@[simp] theorem legalProgram_cons (m : Micro) (p : List Micro) :
    legalProgram (m :: p) ↔ m.legal ∧ legalProgram p := List.forall_mem_cons

@[simp] theorem legalProgram_append (p q : List Micro) :
    legalProgram (p ++ q) ↔ legalProgram p ∧ legalProgram q := List.forall_mem_append

@[simp] theorem legal_setReg (w : RegWrite) : (Micro.setReg w).legal := trivial

/-- No register write touches the bus address (R21). -/
@[simp] theorem store_i2cAddr (r : Regs) (w : RegWrite) : (r.store w).i2cAddr = r.i2cAddr := by
  cases w <;> rfl

@[simp] theorem regsAfter_i2cAddr (r : Regs) (p : List Micro) : (regsAfter r p).i2cAddr = r.i2cAddr := by
  induction p generalizing r with
  | nil => rfl
  | cons m ms ih => cases m <;> simp [regsAfter, ih]

/-- The backlight bit is not RW (R79), so OR-ing it in keeps RW clear. -/
theorem or_backlightMask_rw (r : Regs) {d : Byte} (h : d &&& maskRW = 0#8) :
    (d ||| r.backlightMask) &&& maskRW = 0#8 := by
  unfold Regs.backlightMask
  cases r.backlight <;> (revert h; revert d; decide)

theorem eventsOf_sound {r : Regs} (ha : r.i2cAddr = Config.i2cAddr) {p : List Micro} (hp : legalProgram p) :
    ∀ e ∈ eventsOf r p, e.sound := by
  induction p generalizing r with
  | nil => simp [eventsOf]
  | cons m ms ih =>
    obtain ⟨hm, hms⟩ := (legalProgram_cons m ms).mp hp
    cases m with
    | setReg w => exact ih ((store_i2cAddr r w).trans ha) hms
    | expanderWrite d => exact List.forall_mem_cons.mpr ⟨⟨ha, or_backlightMask_rw r hm⟩, ih ha hms⟩
    | delay us => exact List.forall_mem_cons.mpr ⟨hm, ih ha hms⟩

/-- Forcing EN low or high does not raise RW (R79, R110). -/
theorem write4bits_legal {v : Byte} (h : v &&& maskRW = 0#8) : legalProgram (write4bits v) := by
  have low : (v &&& ~~~maskEN) &&& maskRW = 0#8 := by revert h; revert v; decide
  have high : (v ||| maskEN) &&& maskRW = 0#8 := by revert h; revert v; decide
  simp [write4bits, pulseEnable, Micro.legal, h, low, high, tEnSetup, tEnHigh, tCmdSettle]

/-- `send` takes only the high four bits of the value, so no value raises RW (R102, R120). -/
theorem send_legal (v : Byte) {m : Byte} (h : m &&& maskRW = 0#8) : legalProgram (send v m) := by
  have nibble (x : Byte) : ((x &&& 0xF0#8) ||| m) &&& maskRW = 0#8 := by
    rw [BitVec.and_or_distrib_right, h, BitVec.and_assoc]
    simp [maskRW]
  exact (legalProgram_append _ _).mpr ⟨write4bits_legal (nibble v), write4bits_legal (nibble (v <<< 4))⟩

@[simp] theorem command_legal (v : Byte) : legalProgram (command v) := send_legal v (by decide)

@[simp] theorem writeData_legal (v : Byte) : legalProgram (writeData v) := send_legal v (by decide)

@[simp] theorem sendDisplayControl_legal (v : Byte) : legalProgram (sendDisplayControl v) := by
  simp [sendDisplayControl]

@[simp] theorem sendEntryMode_legal (v : Byte) : legalProgram (sendEntryMode v) := by
  simp [sendEntryMode]

@[simp] theorem refreshBacklight_legal (on : Bool) : legalProgram (refreshBacklight on) := by
  simp [refreshBacklight, Micro.legal]

@[simp] theorem clsLines_legal : legalProgram clsLines := by simp [clsLines, Micro.legal, tClear]

@[simp] theorem homeLines_legal : legalProgram homeLines := by simp [homeLines, Micro.legal, tHome]

@[simp] theorem locateLines_legal (r : Regs) (column row : Byte) : legalProgram (r.locateLines column row) :=
  command_legal _

@[simp] theorem glyphLines_legal (g : Glyph) : legalProgram (glyphLines g) := by
  simp [glyphLines, Glyph.rows]

/-- The four lone nibbles of the bring-up (R133, R134) have RW clear too. -/
@[simp] theorem beginLines_legal (columns rows dotsize : Byte) : legalProgram (beginLines columns rows dotsize) := by
  have force : legalProgram (write4bits initNibble) := write4bits_legal (by decide)
  have commit : legalProgram commitInterface := write4bits_legal (by decide)
  simp [beginLines, setupRegisters, powerWait, forceInterface, functionSet, initDisplayControl, displayOnLines,
    initEntryMode, Micro.legal, force, commit, tPower, tInit1, tInit2, tInit3]

theorem requestLines_legal (r : Regs) (i : Instr) : legalProgram (requestLines r i) := by
  cases i <;> simp [requestLines]

/-! ### The registers a request leaves -/

/-- The registers `BEGIN` leaves (R131, R136 to R139); the backlight and the bus address stay. -/
theorem regsAfter_beginLines (r : Regs) (columns rows dotsize : Byte) :
    regsAfter r (beginLines columns rows dotsize) =
      { r with
        columns := columns, rows := rows, dotsize := dotsize, displayFunction := functionFlags rows dotsize
        displayControl := 0x04#8, displayMode := 0x02#8, begun := true
        rowOffset := ⟨0x00#8, 0x40#8, columns, 0x40#8 + columns⟩ } := rfl

/-- The two flags exclude each other, since one needs `rows > 1` and the other `rows = 1` (R24, R131). -/
theorem functionFlags_values (rows dotsize : Byte) :
    functionFlags rows dotsize = 0x00#8 ∨ functionFlags rows dotsize = 0x04#8 ∨
      functionFlags rows dotsize = 0x08#8 := by
  unfold functionFlags
  by_cases h : rows = 1#8
  · subst h
    by_cases hd : dotsize = 0#8 <;> simp [hd, lcd5x10Dots]
  · by_cases hr : 1#8 < rows <;> simp [h, hr, lcd2Line]

theorem broughtUp_beginLines (r : Regs) (columns dotsize : Byte) {rows : Byte} (h : rows ≠ 0#8) :
    (regsAfter r (beginLines columns rows dotsize)).broughtUp := by
  rw [regsAfter_beginLines]
  have hrows : 1 ≤ rows.toNat := by bv_omega
  exact ⟨rfl, hrows, functionFlags_values rows dotsize, show 4 ≤ 7 by decide, show 2 ≤ 3 by decide, rfl⟩

theorem broughtUp_with_displayControl {r : Regs} (h : r.broughtUp) {v : Byte} (hv : v.toNat ≤ 7) :
    { r with displayControl := v }.broughtUp := by
  obtain ⟨hb, hr, hf, -, hm, ht⟩ := h
  exact ⟨hb, hr, hf, hv, hm, ht⟩

theorem broughtUp_with_displayMode {r : Regs} (h : r.broughtUp) {v : Byte} (hv : v.toNat ≤ 3) :
    { r with displayMode := v }.broughtUp := by
  obtain ⟨hb, hr, hf, hc, -, ht⟩ := h
  exact ⟨hb, hr, hf, hc, hv, ht⟩

/-- Setting one of the low bits of a control byte keeps it within those bits. -/
theorem or_toNat_le {n : Nat} {x m : Byte} (hx : x.toNat ≤ 2 ^ n - 1) (hm : m.toNat ≤ 2 ^ n - 1) :
    (x ||| m).toNat ≤ 2 ^ n - 1 := by
  have hpos := Nat.two_pow_pos n
  have hor : x.toNat ||| m.toNat < 2 ^ n := Nat.or_lt_two_pow (by omega) (by omega)
  rw [BitVec.toNat_or]
  omega

/-- Masking a control byte never makes it larger. -/
theorem and_toNat_le {n : Nat} {x : Byte} (hx : x.toNat ≤ n) (m : Byte) : (x &&& m).toNat ≤ n := by
  rw [BitVec.toNat_and]
  exact Nat.and_le_left.trans hx

/-- A request is accepted after a completed `BEGIN`, or it is a `BEGIN` with at least one row (R201). -/
theorem begun_or_begin_of_accepted {r : Regs} {i : Instr} (ha : refusalOf r i = none) :
    r.begun = true ∨ ∃ columns rows dotsize, i = .begin columns rows dotsize ∧ rows ≠ 0#8 := by
  cases i with
  | begin columns rows dotsize => exact .inr ⟨columns, rows, dotsize, rfl, by simpa [refusalOf] using ha⟩
  | _ => exact .inl (by simpa [refusalOf] using ha)

/-- R34 is kept by the lines of every request that is accepted: only the `BEGIN` and `DISPLAY` requests write registers
(R35), and a flag bit of `displayControl` or `displayMode` stays inside its range. -/
theorem broughtUp_regsAfter {r : Regs} (h : r.broughtUp) {i : Instr} (ha : refusalOf r i = none) :
    (regsAfter r (requestLines r i)).broughtUp := by
  have ⟨_, _, _, hc, hm, _⟩ := h
  cases i with
  | begin columns rows dotsize =>
    exact broughtUp_beginLines r columns dotsize (by simpa [refusalOf] using ha)
  | displayOn | cursorOn | blinkOn =>
    exact broughtUp_with_displayControl h (or_toNat_le (n := 3) hc (by decide))
  | displayOff | cursorOff | blinkOff => exact broughtUp_with_displayControl h (and_toNat_le hc _)
  | leftToRight | autoscrollOn => exact broughtUp_with_displayMode h (or_toNat_le (n := 2) hm (by decide))
  | rightToLeft | autoscrollOff => exact broughtUp_with_displayMode h (and_toNat_le hm _)
  | backlightOn | backlightOff | cls | home | scrollLeft | scrollRight | locate | create | char | write => exact h

/-! ### Sound registers and sound states -/

theorem reset_regs_sound : Regs.reset.sound := ⟨rfl, .inl rfl⟩

/-- Before a completed `BEGIN` the one request that is accepted is `BEGIN` itself, which brings the registers up. -/
theorem regsAfter_sound {r : Regs} (h : r.sound) {i : Instr} (ha : refusalOf r i = none) :
    (regsAfter r (requestLines r i)).sound := by
  obtain ⟨haddr, hregs⟩ := h
  refine ⟨(regsAfter_i2cAddr _ _).trans haddr, .inr ?_⟩
  obtain hreset | hup := hregs
  · obtain hbegun | ⟨columns, rows, dotsize, rfl, hrows⟩ := begun_or_begin_of_accepted ha
    · rw [hreset] at hbegun
      exact absurd hbegun (by decide)
    · exact broughtUp_beginLines r columns dotsize hrows
  · exact broughtUp_regsAfter hup ha

section Sound
variable {s t : State}

theorem takeReset_sound (h : ∀ e ∈ s.trace, e.sound) (rest : List HostInput) : (s.takeReset rest).sound :=
  ⟨rfl, reset_regs_sound, h⟩

theorem take_sound (h : s.sound) (n : Nat) : (s.take n).sound := h

theorem refuse_sound (h : s.sound) (reason : RefusalReason) : (s.refuse reason).sound := ⟨rfl, h.2⟩

/-- Refused or completed, a request ends in a sound state. -/
theorem outcomeOf_sound (h : s.sound) (i : Instr) : (outcomeOf i s).sound := by
  unfold outcomeOf
  split
  next reason _ => exact refuse_sound h reason
  next ha =>
    obtain ⟨-, hregs, htrace⟩ := h
    refine ⟨rfl, regsAfter_sound hregs ha, ?_⟩
    exact List.forall_mem_append.mpr ⟨htrace, eventsOf_sound hregs.1 (requestLines_legal _ _)⟩

/-- A reset that cuts a request short keeps some of its events and resets the registers (R221). -/
theorem underReset_sound (hs : s.sound) (ht : t.sound) : (s.underReset t).sound := by
  obtain ⟨-, -, hs⟩ := hs
  have hcut (n : Nat) : ∀ e ∈ s.trace ++ (s.eventsSince t).take n, e.sound := by
    refine List.forall_mem_append.mpr ⟨hs, fun e he => ?_⟩
    obtain ⟨-, -, htrace⟩ := ht
    exact htrace e (List.mem_of_mem_drop (List.mem_of_mem_take he))
  unfold State.underReset
  split
  · split
    · exact takeReset_sound (hcut _) _
    · exact ht
  · exact ht

theorem stateAfter_fetch_sound (h : s.sound) : (stateAfter s.fetch).sound := by
  have ⟨hp, _, htrace⟩ := h
  obtain ⟨i, n, hf⟩ | hf | ⟨rest, hf⟩ | hf := fetch_idle_cases hp <;> rw [hf]
  · exact underReset_sound (take_sound h n) (outcomeOf_sound (take_sound h n) i)
  · exact h
  · exact takeReset_sound htrace rest
  · exact refuse_sound (take_sound h 1) _

end Sound

/-- Settles O46: an idle block waits, takes a reset, drops a word or runs a request, and each keeps the invariant. -/
theorem stepKeepsSound : Obligations.StepKeepsSound := by
  intro s t hs hstep
  rw [step_eq] at hstep
  obtain rfl : stateAfter s.fetch = t := by injection hstep
  exact stateAfter_fetch_sound hs

/-! ### No operation reads the history -/

/-- `s` with the trace, the responses and the marks of `past` put before its own. -/
def State.withPast (s past : State) : State :=
  { s with
    trace := past.trace ++ s.trace
    responses := past.responses ++ s.responses
    refusals := past.refusals ++ s.refusals }

/-- `s` with no history. -/
def State.forgetPast (s : State) : State := { s with trace := [], responses := [], refusals := [] }

/-- What is found at the port, with `past` put before the history of its state. -/
def Fetched.withPast (past : State) : Fetched → Fetched
  | .settled s => .settled (s.withPast past)
  | .request i s => .request i (s.withPast past)

theorem forgetPast_withPast (s : State) : s.forgetPast.withPast s = s := by
  simp [State.withPast, State.forgetPast]

theorem forgetPast_eq_of_sameButHistory {s t : State} (h : s.sameButHistory t) : s.forgetPast = t.forgetPast := by
  obtain ⟨hr, hp, hi, hw⟩ := h
  simp [State.forgetPast, hr, hp, hi, hw]

section Past
variable (s t past : State)

@[simp] theorem withPast_regs : (s.withPast past).regs = s.regs := rfl
@[simp] theorem withPast_phase : (s.withPast past).phase = s.phase := rfl
@[simp] theorem withPast_input : (s.withPast past).input = s.input := rfl

theorem withPast_perform (m : Micro) : (s.withPast past).perform m = (s.perform m).withPast past := by
  cases m <;> simp [State.perform, State.emit, State.withPast]

theorem withPast_performAll (p : List Micro) :
    (s.withPast past).performAll p = (s.performAll p).withPast past := by
  simp [performAll_eq, State.withPast]

theorem withPast_finish (c : Byte) : (s.withPast past).finish c = (s.finish c).withPast past := by
  simp [State.finish, State.withPast]

theorem withPast_completed (r : Regs) (es : List Event) (c : Byte) :
    (s.withPast past).completed r es c = (s.completed r es c).withPast past := by
  simp [State.completed, State.withPast]

theorem withPast_refuse (reason : RefusalReason) :
    (s.withPast past).refuse reason = (s.refuse reason).withPast past := by
  simp [State.refuse, State.withPast]

theorem withPast_take (n : Nat) : (s.withPast past).take n = (s.take n).withPast past := rfl

theorem withPast_takeReset (rest : List HostInput) :
    (s.withPast past).takeReset rest = (s.takeReset rest).withPast past := rfl

theorem withPast_nextEvent (next : Nat) (c : Byte) (p : List Micro) :
    (s.withPast past).nextEvent next c p = (s.nextEvent next c p).withPast past := by
  induction p generalizing s with
  | nil => exact withPast_finish s past c
  | cons m ms ih =>
    simp only [State.nextEvent, State.afterEvent, withPast_perform, withPast_performAll, withPast_finish, ih]
    split
    · split <;> rfl
    · rfl

theorem withPast_tick : (s.withPast past).tick = s.tick.withPast past := by
  simp only [State.tick, withPast_phase, withPast_nextEvent]
  split <;> rfl

theorem withPast_fetchBusy (next : Nat) :
    (s.withPast past).fetchBusy next = (s.fetchBusy next).withPast past := by
  simp only [State.fetchBusy, withPast_input, withPast_tick, withPast_takeReset]
  split
  · split <;> rfl
  · rfl

theorem withPast_awaitWords : (s.withPast past).awaitWords = s.awaitWords.withPast past := by
  simp only [State.awaitWords, withPast_input, withPast_takeReset]
  split <;> rfl

theorem withPast_fetchIdle : (s.withPast past).fetchIdle = s.fetchIdle.withPast past := by
  simp only [State.fetchIdle, withPast_input, withPast_take, withPast_refuse, withPast_awaitWords]
  split <;> rfl

theorem withPast_fetch : (s.withPast past).fetch = s.fetch.withPast past := by
  simp only [State.fetch, withPast_phase, withPast_input, withPast_fetchBusy, withPast_takeReset, withPast_fetchIdle]
  split
  · rfl
  · split <;> rfl

theorem withPast_outcomeOf (i : Instr) : outcomeOf i (s.withPast past) = (outcomeOf i s).withPast past := by
  simp only [outcomeOf, withPast_regs, withPast_refuse, withPast_completed]
  split <;> rfl

@[simp] theorem withPast_eventsSince :
    (s.withPast past).eventsSince (t.withPast past) = s.eventsSince t := by
  simp [State.eventsSince, State.withPast, List.drop_append]

theorem withPast_underReset :
    (s.withPast past).underReset (t.withPast past) = (s.underReset t).withPast past := by
  simp only [State.underReset, withPast_input, withPast_eventsSince]
  split
  · split
    · simp [State.withPast, State.takeReset]
    · rfl
  · rfl

/-- What the block does next, it does with any history before it. -/
theorem stateAfter_fetch_withPast :
    stateAfter (s.withPast past).fetch = (stateAfter s.fetch).withPast past := by
  rw [withPast_fetch]
  cases s.fetch with
  | settled t => rfl
  | request i t => simp only [Fetched.withPast, stateAfter, withPast_outcomeOf, withPast_underReset]

end Past

/-- A step adds the step of the state without history to the history of `s`. -/
theorem step_eq_withPast {s t : State} (h : step s = .next t) :
    t = (stateAfter s.forgetPast.fetch).withPast s := by
  rw [step_eq] at h
  injection h with h
  rw [← h, ← stateAfter_fetch_withPast, forgetPast_withPast]

/-- Settles O14: both steps are one step without history, put after the two histories. -/
theorem historyIsNeverRead : Obligations.HistoryIsNeverRead := by
  intro s s' t t' hs ht ht'
  have ht := step_eq_withPast ht
  have ht' := step_eq_withPast ht'
  rw [← forgetPast_eq_of_sameButHistory hs] at ht'
  subst ht ht'
  exact ⟨⟨rfl, rfl, rfl, rfl⟩, by simp [State.eventsSince, State.withPast], by simp [State.withPast],
    by simp [State.withPast]⟩

/-! ### The step of a request -/

@[simp] theorem outcomeOf_input (i : Instr) (s : State) : (outcomeOf i s).input = s.input := by
  unfold outcomeOf
  split <;> rfl

/-- No reset inside the request, nothing cut short (R221). -/
theorem underReset_of_runsUndisturbed {s t : State} (h : runsUndisturbed t.input) : s.underReset t = t := by
  unfold State.underReset
  split
  next k rest hi => exact absurd hi (h k rest)
  next => rfl

/-- Settles O8: the port gives the request with its words taken, and no reset cuts its outcome. -/
theorem stepRunsTheDecodedRequest : Obligations.StepRunsTheDecodedRequest := by
  intro s i ws later hp hi hd hl
  rw [step_eq, exec_eq, fetch_request hp hi hd, stateAfter, underReset_of_runsUndisturbed]
  simpa using hl

/-! ### Addressing without rows -/

/-- Without a row the table byte of a cell is the free value (log 5). -/
theorem locateLines_of_no_rows {r : Regs} (h : r.rows = 0#8) (column row : Byte) :
    r.locateLines column row = command (0x80#8 ||| (column + Config.rowBaseOfNoRows row)) := by
  simp [Regs.locateLines, Regs.ddramCommand, Regs.rowBase, h, lcdSetDdramAddr]

/-- A request that is not refused completes with its lines and its count. -/
theorem exec_of_accepted {i : Instr} {s : State} (h : refusalOf s.regs i = none) :
    exec i s = .next (s.completed (regsAfter s.regs (requestLines s.regs i))
      (eventsOf s.regs (requestLines s.regs i)) (requestCount i)) := by
  rw [exec_eq, outcomeOf, h]

/-- Settles O36: both requests send the address command whose table byte is free, `CHAR` then its data byte. -/
theorem addressWithNoRowsIsFree : Obligations.AddressWithNoRowsIsFree := by
  intro column row c s hb hr
  have locate_accepted : refusalOf s.regs (.locate column row) = none := by simp [refusalOf, hb]
  have char_accepted : refusalOf s.regs (.char column row c) = none := by simp [refusalOf, hb]
  rw [exec_of_accepted locate_accepted, exec_of_accepted char_accepted]
  simp [requestLines, requestCount, locateLines_of_no_rows hr, regsAfter_append, eventsOf_append]

end Sys2Proof.Machine

namespace Sys2Proof.Machine

/-! ### A request event by event -/

theorem tick_of_busy {s : State} {next : Nat} {rest : List Micro} {c : Byte} (h : s.phase = .busy next rest c) :
    s.tick = s.nextEvent next c rest := by
  simp [State.tick, h]

theorem runToEnd_of_idle {s : State} (h : s.phase = .idle) : s.runToEnd = s := by
  simp [State.runToEnd, h]

theorem runToEnd_of_busy {s : State} {next : Nat} {rest : List Micro} {c : Byte} (h : s.phase = .busy next rest c) :
    s.runToEnd = (s.performAll rest).finish c := by
  simp [State.runToEnd, h]

/-- After an event, what is left of the request still ends where its lines lead. -/
theorem runToEnd_afterEvent (s : State) (next : Nat) (rest : List Micro) (c : Byte) :
    (s.afterEvent next rest c).runToEnd = (s.performAll rest).finish c := by
  unfold State.afterEvent
  split
  · simp [State.runToEnd, State.finish, performAll_eq]
  · exact runToEnd_of_idle rfl

theorem runToEnd_nextEvent (s : State) (next : Nat) (c : Byte) (p : List Micro) :
    (s.nextEvent next c p).runToEnd = (s.performAll p).finish c := by
  induction p generalizing s with
  | nil => exact runToEnd_of_idle rfl
  | cons m ms ih =>
    rw [State.nextEvent]
    split
    · exact runToEnd_afterEvent (s.perform m) (next + 1) ms c
    · exact ih (s.perform m)

/-- One event does not change where the request in progress ends (R29, log 6). -/
theorem runToEnd_tick (s : State) : s.tick.runToEnd = s.runToEnd := by
  cases hp : s.phase with
  | idle => simp [State.tick, hp]
  | busy next rest c => rw [tick_of_busy hp, runToEnd_nextEvent, runToEnd_of_busy hp]

theorem runToEnd_iterate_tick (s : State) (n : Nat) : (State.tick^[n] s).runToEnd = s.runToEnd := by
  induction n with
  | zero => rfl
  | succ n ih => rw [Function.iterate_succ_apply', runToEnd_tick, ih]

/-- How many events a program emits. -/
def eventCount (p : List Micro) : Nat := (p.filter Micro.emits).length

theorem eventCount_cons_of_emits {m : Micro} (h : m.emits = true) (ms : List Micro) :
    eventCount (m :: ms) = eventCount ms + 1 := by
  simp [eventCount, h]

theorem eventCount_cons_of_silent {m : Micro} (h : m.emits = false) (ms : List Micro) :
    eventCount (m :: ms) = eventCount ms := by
  simp [eventCount, h]

theorem eventCount_pos_iff (p : List Micro) : 0 < eventCount p ↔ p.any Micro.emits = true := by
  simp [eventCount, List.length_filter_pos_iff]

/-- An event with another one after it leaves the request in progress, at the next index and one event shorter. -/
theorem nextEvent_phase_busy (s : State) (next : Nat) (c : Byte) {p : List Micro} (h : 1 < eventCount p) :
    ∃ rest, (s.nextEvent next c p).phase = .busy (next + 1) rest c ∧ eventCount rest + 1 = eventCount p := by
  induction p generalizing s with
  | nil => simp [eventCount] at h
  | cons m ms ih =>
    cases hm : m.emits with
    | true =>
      rw [eventCount_cons_of_emits hm] at h ⊢
      have more : ms.any Micro.emits = true := (eventCount_pos_iff ms).mp (by omega)
      exact ⟨ms, by simp only [State.nextEvent, State.afterEvent, hm, more, if_true], rfl⟩
    | false =>
      rw [eventCount_cons_of_silent hm] at h ⊢
      simpa [State.nextEvent, hm] using ih (s.perform m) h

/-- The last event of a request ends it. -/
theorem nextEvent_phase_idle (s : State) (next : Nat) (c : Byte) {p : List Micro} (h : eventCount p ≤ 1) :
    (s.nextEvent next c p).phase = .idle := by
  induction p generalizing s with
  | nil => rfl
  | cons m ms ih =>
    cases hm : m.emits with
    | true =>
      rw [eventCount_cons_of_emits hm] at h
      have last : ¬ ms.any Micro.emits = true := fun more => by
        have := (eventCount_pos_iff ms).mpr more
        omega
      simp only [State.nextEvent, State.afterEvent, hm, last, if_true]
      rfl
    | false =>
      rw [eventCount_cons_of_silent hm] at h
      simpa [State.nextEvent, hm] using ih (s.perform m) h

/-- After `n` events of a longer request the block is at event `n`, with the other events left. -/
theorem iterate_tick_phase (s : State) (p : List Micro) (c : Byte) {n : Nat} (h : n < eventCount p) :
    ∃ rest, (State.tick^[n] (s.accept p c)).phase = .busy n rest c ∧ n + eventCount rest = eventCount p := by
  induction n with
  | zero => exact ⟨p, rfl, Nat.zero_add _⟩
  | succ n ih =>
    obtain ⟨rest, hphase, hcount⟩ := ih (by omega)
    obtain ⟨rest', hphase', hcount'⟩ :=
      nextEvent_phase_busy (State.tick^[n] (s.accept p c)) n c (p := rest) (by omega)
    refine ⟨rest', ?_, by omega⟩
    rw [Function.iterate_succ_apply', tick_of_busy hphase]
    exact hphase'

/-- After all its events a request has ended. -/
theorem iterate_tick_eventCount_phase (s : State) {p : List Micro} (c : Byte) (h : 0 < eventCount p) :
    (State.tick^[eventCount p] (s.accept p c)).phase = .idle := by
  obtain ⟨n, hn⟩ := Nat.exists_eq_add_one.mpr h
  obtain ⟨rest, hphase, hcount⟩ := iterate_tick_phase s p c (n := n) (by omega)
  rw [hn, Function.iterate_succ_apply', tick_of_busy hphase]
  exact nextEvent_phase_idle _ n c (by omega)

/-- Settles O12: the phase counts the events, and no event changes where the request ends, so once idle it is there. -/
theorem eventByEventIsAtomic : Obligations.EventByEventIsAtomic := by
  intro s program count hany
  refine ⟨fun n hn => ?_, ?_⟩
  · obtain ⟨rest, hphase, -⟩ := iterate_tick_phase s program count hn
    exact ⟨rest, hphase⟩
  · have ended := iterate_tick_eventCount_phase s count ((eventCount_pos_iff program).mpr hany)
    calc State.tick^[eventCount program] (s.accept program count)
        = (State.tick^[eventCount program] (s.accept program count)).runToEnd := (runToEnd_of_idle ended).symm
      _ = s.runRequest program count := runToEnd_iterate_tick _ _

/-! ### The write matrix -/

/-- The register a register write names (R35). -/
def RegWrite.target : RegWrite → RegName
  | .columns _ => .columns
  | .rows _ => .rows
  | .dotsize _ => .dotsize
  | .displayFunction _ => .displayFunction
  | .displayControl _ => .displayControl
  | .displayMode _ => .displayMode
  | .backlight _ => .backlight
  | .rowOffset _ _ => .rowOffset
  | .begun => .begun

theorem agree_refl (r : Regs) (n : RegName) : r.agree r n := by cases n <;> rfl

/-- A register write leaves every other register as it was. -/
theorem agree_store (r : Regs) {w : RegWrite} {n : RegName} (h : n ≠ w.target) : r.agree (r.store w) n := by
  cases w <;> cases n <;> simp_all [Regs.agree, Regs.store, RegWrite.target]

/-- The lines of a request write only registers of its row of R35. -/
theorem agree_regsAfter (r : Regs) {i : Instr} {n : RegName} (h : n ∉ registersWritten i) :
    r.agree (regsAfter r (requestLines r i)) n := by
  cases i with
  | begin columns rows dotsize =>
    rw [requestLines, regsAfter_beginLines]
    cases n with
    | i2cAddr | backlight => rfl
    | _ => simp [registersWritten] at h
  | displayOn | displayOff | cursorOn | cursorOff | blinkOn | blinkOff =>
    exact agree_store r (w := .displayControl _) (List.ne_of_not_mem_cons h)
  | leftToRight | rightToLeft | autoscrollOn | autoscrollOff =>
    exact agree_store r (w := .displayMode _) (List.ne_of_not_mem_cons h)
  | backlightOn | backlightOff => exact agree_store r (w := .backlight _) (List.ne_of_not_mem_cons h)
  | cls | home | scrollLeft | scrollRight | locate | create | char | write => exact agree_refl r n

@[simp] theorem performAll_regs (s : State) (p : List Micro) : (s.performAll p).regs = regsAfter s.regs p := by
  rw [performAll_eq]

/-- Settles O43: a refused request writes no register, a completed one those of its row. -/
theorem registerWriteMatrix : Obligations.RegisterWriteMatrix := by
  refine ⟨fun i s t n hexec hn => ?_, fun s v m => by simp [regsAfter]⟩
  obtain ⟨reason, -, rfl⟩ | ⟨-, rfl⟩ := exec_cases hexec
  · exact agree_refl s.regs n
  · exact agree_regsAfter s.regs hn

/-! ### The registers of reset and of bring-up -/

/-- `displayFunction` never asks for the 8-bit interface: DL is clear (R24, R34). -/
theorem functionFlags_DL (rows dotsize : Byte) : functionFlags rows dotsize &&& 0x10#8 = 0#8 := by
  obtain h | h | h := functionFlags_values rows dotsize <;> rw [h] <;> decide

/-- Settles O47: `BEGIN` brings the registers up; a refused request leaves them, an accepted one keeps R34. -/
theorem broughtUpRegisters : Obligations.BroughtUpRegisters := by
  refine ⟨fun columns rows dotsize s hrows => ?_, fun i s t hup hexec => ?_⟩
  · have accepted : refusalOf s.regs (.begin columns rows dotsize) = none := by simp [refusalOf, hrows]
    exact ⟨_, exec_of_accepted accepted, broughtUp_beginLines s.regs columns dotsize hrows,
      functionFlags_DL rows dotsize⟩
  · obtain ⟨reason, -, rfl⟩ | ⟨accepted, rfl⟩ := exec_cases hexec
    · exact hup
    · exact broughtUp_regsAfter hup accepted

/-- Settles O15: each register field of `State.reset` is written out as R30 gives it. -/
theorem resetValues : Obligations.ResetValues := ⟨rfl, rfl⟩

/-- Settles O45: the registers of reset are sound, and nothing has been emitted. -/
theorem soundAtReset : Obligations.SoundAtReset := ⟨rfl, reset_regs_sound, List.forall_mem_nil _⟩

end Sys2Proof.Machine

namespace Sys2Proof.Machine

/-! ### The frame of a step and of a request -/

/-- Settles O13: a step puts what it adds after the history of the state it starts from. -/
theorem stepOnlyAppends : Obligations.StepOnlyAppends := by
  intro s t hstep
  rw [step_eq_withPast hstep]
  exact ⟨List.prefix_append _ _, List.prefix_append _ _, List.prefix_append _ _⟩

/-- Settles O44: a refused request adds a response and a mark, a completed one its events and a response. -/
theorem requestFrame : Obligations.RequestFrame := by
  intro i s t hexec
  obtain ⟨reason, -, rfl⟩ | ⟨-, rfl⟩ := exec_cases hexec
  · exact ⟨rfl, rfl, rfl, List.prefix_refl _, ⟨_, rfl⟩, List.prefix_append _ _⟩
  · exact ⟨rfl, rfl, rfl, List.prefix_append _ _, ⟨_, rfl⟩, List.prefix_refl _⟩

/-! ### The row clamp -/

/-- With at least one row the two clamps give the last valid row (R182). -/
theorem clampRow_toNat (row : Byte) {rows : Byte} (h : rows ≠ 0#8) :
    (clampRow row rows).toNat = lastValidRow row rows := by
  have hrows : 1 ≤ rows.toNat := by bv_omega
  unfold clampRow lastValidRow
  by_cases hrow : 4#8 ≤ row
  · by_cases hlast : rows ≤ 3#8 <;> simp only [hrow, hlast, if_true, if_false] <;> bv_omega
  · by_cases hlast : rows ≤ row <;> simp only [hrow, hlast, if_true, if_false] <;> bv_omega

theorem tableIndex_val {row : Byte} (h : row.toNat ≤ 3) : (tableIndex row).val = row.toNat := by
  revert row
  decide

theorem read_eq_entries (t : RowTable) (i : Fin 4) : t.read i = t.entries.getD i.val 0#8 := by
  fin_cases i <;> rfl

/-- The address command of a cell is the one of R182 when there is a row. -/
theorem ddramCommand_eq_cellCommand {r : Regs} (h : r.rows ≠ 0#8) (column row : Byte) :
    r.ddramCommand column row = r.cellCommand column row := by
  have hclamp := clampRow_toNat row h
  have hindex : (tableIndex (clampRow row r.rows)).val = lastValidRow row r.rows := by
    rw [← hclamp]
    refine tableIndex_val ?_
    rw [hclamp, lastValidRow]
    omega
  rw [Regs.ddramCommand, Regs.rowBase, if_neg h, read_eq_entries, hindex]
  rfl

/-! ### What the display latches -/

/-- No falling edge of EN starts at a byte that has it low. -/
theorem latchedOf_cons_of_low {x : Byte} (h : enable x = false) (bs : List Byte) :
    latchedOf (x :: bs) = latchedOf bs := by
  cases bs with
  | nil => rfl
  | cons y ys => simp [latchedOf, h]

/-- A byte shown with EN low, then high, then low is latched once, whatever follows (R114). -/
theorem latchedOf_pulse {x : Byte} (h : enable x = false) (bs : List Byte) :
    latchedOf (x :: x :: (x ||| 0x04#8) :: x :: bs) = (registerSelect x, x.extractLsb' 4 4) :: latchedOf bs := by
  have high : enable (x ||| 0x04#8) = true ∧ registerSelect (x ||| 0x04#8) = registerSelect x ∧
      (x ||| 0x04#8).extractLsb' 4 4 = x.extractLsb' 4 4 := by revert x; decide
  obtain ⟨hen, hrs, hpayload⟩ := high
  rw [latchedOf_cons_of_low h, latchedOf_cons_of_low h, latchedOf, hen, h, hrs, hpayload, latchedOf_cons_of_low h]
  rfl

/-- `write4bits` of a byte with EN clear latches its nibble once; the display does not see the backlight bit (R79). -/
theorem latched_nibbleTrace_append (r : Regs) {v : Byte} (h : v &&& 0x04#8 = 0#8) (es : List Event) :
    latched (r.nibbleTrace v ++ es) = (registerSelect v, v.extractLsb' 4 4) :: latched es := by
  have lit : enable (v ||| r.backlightMask) = false ∧ registerSelect (v ||| r.backlightMask) = registerSelect v ∧
      (v ||| r.backlightMask).extractLsb' 4 4 = v.extractLsb' 4 4 := by
    unfold Regs.backlightMask
    cases r.backlight <;> (revert v; decide)
  obtain ⟨hen, hrs, hpayload⟩ := lit
  rw [nibbleTrace_of_low r v h, ← hrs, ← hpayload]
  exact latchedOf_pulse hen (busBytes es)

/-- The two nibbles of a command or data byte, the high one first (R52). -/
def nibblesOf : Bool × Byte → List (Bool × BitVec 4)
  | (rs, b) => [(rs, b.extractLsb' 4 4), (rs, b.extractLsb' 0 4)]

@[simp] theorem length_nibblesOf (x : Bool × Byte) : (nibblesOf x).length = 2 := rfl

/-- `send` makes the display latch the two nibbles of the value, with RS as the mode has it (R120). -/
theorem latched_sendTrace_append (r : Regs) (v : Byte) {m : Byte} (h : m = 0x00#8 ∨ m = 0x01#8) (es : List Event) :
    latched (r.sendTrace v m ++ es) = nibblesOf (registerSelect m, v) ++ latched es := by
  have nibble : ((v &&& 0xF0#8) ||| m) &&& 0x04#8 = 0#8 ∧ (((v <<< 4) &&& 0xF0#8) ||| m) &&& 0x04#8 = 0#8 ∧
      registerSelect ((v &&& 0xF0#8) ||| m) = registerSelect m ∧
      registerSelect (((v <<< 4) &&& 0xF0#8) ||| m) = registerSelect m ∧
      ((v &&& 0xF0#8) ||| m).extractLsb' 4 4 = v.extractLsb' 4 4 ∧
      (((v <<< 4) &&& 0xF0#8) ||| m).extractLsb' 4 4 = v.extractLsb' 0 4 := by
    obtain rfl | rfl := h <;> (revert v; decide)
  obtain ⟨enHi, enLo, rsHi, rsLo, hi, lo⟩ := nibble
  rw [← eventsOf_send r v m h, eventsOf_send_nibbles, List.append_assoc, latched_nibbleTrace_append r enHi,
    latched_nibbleTrace_append r enLo, rsHi, rsLo, hi, lo]
  rfl

@[simp] theorem latched_nil : latched [] = [] := rfl

@[simp] theorem latched_wait_cons (us : Nat) (es : List Event) : latched (.wait us :: es) = latched es := rfl

/-- One byte alone has no falling edge of EN. -/
@[simp] theorem latched_singleton (e : Event) : latched [e] = [] := by
  cases e <;> rfl

@[simp] theorem latched_commandTrace_append (r : Regs) (v : Byte) (es : List Event) :
    latched (r.commandTrace v ++ es) = nibblesOf (false, v) ++ latched es :=
  latched_sendTrace_append r v (.inl rfl) es

@[simp] theorem latched_dataTrace_append (r : Regs) (v : Byte) (es : List Event) :
    latched (r.dataTrace v ++ es) = nibblesOf (true, v) ++ latched es :=
  latched_sendTrace_append r v (.inr rfl) es

@[simp] theorem latched_commandTrace (r : Regs) (v : Byte) : latched (r.commandTrace v) = nibblesOf (false, v) := by
  simpa using latched_commandTrace_append r v []

@[simp] theorem latched_dataTrace (r : Regs) (v : Byte) : latched (r.dataTrace v) = nibblesOf (true, v) := by
  simpa using latched_dataTrace_append r v []

@[simp] theorem latched_flatMap_dataTrace (r : Regs) (bs : List Byte) :
    latched (bs.flatMap r.dataTrace) = bs.flatMap fun b => nibblesOf (true, b) := by
  induction bs with
  | nil => rfl
  | cons b bs ih => simp [ih]

@[simp] theorem pairNibbles_flatMap_nibblesOf (xs : List (Bool × Byte)) :
    pairNibbles (xs.flatMap nibblesOf) = xs := by
  induction xs with
  | nil => rfl
  | cons x xs ih =>
    obtain ⟨rs, b⟩ := x
    have halves : b.extractLsb' 4 4 ++ b.extractLsb' 0 4 = b := by revert b; decide
    simp [nibblesOf, pairNibbles, ih, halves]

theorem length_flatMap_nibblesOf (xs : List (Bool × Byte)) : (xs.flatMap nibblesOf).length = 2 * xs.length := by
  simp [List.length_flatMap, Nat.mul_comm]

/-- The display latches the two nibbles of each byte the request sends, in order, and nothing else. -/
theorem latched_requestLines {r : Regs} (hrows : r.rows ≠ 0#8) {i : Instr} (hi : ∀ c r d, i ≠ .begin c r d) :
    latched (eventsOf r (requestLines r i)) = (r.bytesSent i).flatMap nibblesOf := by
  cases i with
  | begin c r d => exact absurd rfl (hi c r d)
  | locate column row | char column row c =>
    simp [requestLines, Regs.bytesSent, Regs.locateLines, eventsOf_append, ddramCommand_eq_cellCommand hrows]
  | create location charmap =>
    simp [requestLines, Regs.bytesSent, eventsOf_append, cgramCommand, lcdSetCgramAddr, List.flatMap_map]
  | _ => simp [requestLines, Regs.bytesSent]

@[simp] theorem eventsSince_completed (s : State) (r : Regs) (es : List Event) (c : Byte) :
    s.eventsSince (s.completed r es c) = es := by
  simp [State.eventsSince]

/-- After a completed `BEGIN` no other request is refused (R201). -/
theorem refusalOf_of_begun {r : Regs} (hbegun : r.begun = true) {i : Instr} (hi : ∀ c r d, i ≠ .begin c r d) :
    refusalOf r i = none := by
  cases i with
  | begin c r d => exact absurd rfl (hi c r d)
  | _ => simp [refusalOf, hbegun]

/-- Settles O50: after `BEGIN` the request completes, and its latched nibbles are those of its bytes. -/
theorem displayGetsTheBytes : Obligations.DisplayGetsTheBytes := by
  intro i s t hi hbegun hrows hexec
  rw [exec_of_accepted (refusalOf_of_begun hbegun hi)] at hexec
  injection hexec with ht
  rw [← ht, eventsSince_completed, sentBytes, latched_requestLines hrows hi]
  exact ⟨pairNibbles_flatMap_nibblesOf _, length_flatMap_nibblesOf _⟩

end Sys2Proof.Machine

namespace Sys2Proof.Machine

/-! ### The decoder on each head word -/

section HeadWord
variable {w : Word} (rest : List Word)

theorem decode_begin (h : Word.op w = 0x01#8) :
    decode (w :: rest) = .ok (.begin (Word.a w) (Word.b w) (Word.c w), rest) := by
  simp [decode, h]

theorem decode_cls (h : Word.op w = 0x02#8) : decode (w :: rest) = .ok (.cls, rest) := by
  simp [decode, h]

theorem decode_home (h : Word.op w = 0x03#8) : decode (w :: rest) = .ok (.home, rest) := by
  simp [decode, h]

theorem decode_locate (h : Word.op w = 0x04#8) :
    decode (w :: rest) = .ok (.locate (Word.a w) (Word.b w), rest) := by
  simp [decode, h]

theorem decode_display (h : Word.op w = 0x05#8) {i : Instr} (hi : displayVariants[(Word.a w).toNat]? = some i) :
    decode (w :: rest) = .ok (i, rest) := by
  simp [decode, h, displayVariant_eq, hi]

theorem decode_create (h : Word.op w = 0x06#8) : decode (w :: rest) = decodeCreate (Word.a w) rest := by
  simp [decode, h]

theorem decode_char (h : Word.op w = 0x07#8) :
    decode (w :: rest) = .ok (.char (Word.a w) (Word.b w) (Word.c w), rest) := by
  simp [decode, h]

theorem decode_write (h : Word.op w = 0x08#8) : decode (w :: rest) = .ok (.write (Word.a w), rest) := by
  simp [decode, h]

theorem decode_reservedMode (h : Word.op w = 0x05#8) (ha : 14#8 ≤ Word.a w) :
    decode (w :: rest) = .error .reservedMode := by
  have hnone : displayVariants[(Word.a w).toNat]? = none := List.getElem?_eq_none ha
  simp [decode, h, displayVariant_eq, hnone]

theorem decode_reservedOpcode (h : Word.op w = 0x00#8 ∨ 0x09#8 ≤ Word.op w) :
    decode (w :: rest) = .error .reservedOpcode := by
  have hop : (Word.op w).toNat = 0 ∨ 9 ≤ (Word.op w).toNat := h.imp (congrArg BitVec.toNat) id
  simp only [decode]
  split
  case h_9 => rfl
  all_goals omega

/-- No reserved word is a request, whatever follows it (R76). -/
theorem decode_reservedWord (h : reservedWord w) :
    decode (w :: rest) = .error .reservedOpcode ∨ decode (w :: rest) = .error .reservedMode := by
  obtain hop | hop | ⟨hop, ha⟩ := h
  · exact .inl (decode_reservedOpcode rest (.inl hop))
  · exact .inl (decode_reservedOpcode rest (.inr hop))
  · exact .inr (decode_reservedMode rest hop ha)

end HeadWord

/-- The rows of R88 leave no head word out. -/
theorem headWord_cases (w : Word) :
    Word.op w = 0x01#8 ∨ Word.op w = 0x02#8 ∨ Word.op w = 0x03#8 ∨ Word.op w = 0x04#8 ∨
    (Word.op w = 0x05#8 ∧ ∃ i, displayVariants[(Word.a w).toNat]? = some i) ∨
    Word.op w = 0x06#8 ∨ Word.op w = 0x07#8 ∨ Word.op w = 0x08#8 ∨ reservedWord w := by
  have hop : ∀ o : Byte, o = 0x01#8 ∨ o = 0x02#8 ∨ o = 0x03#8 ∨ o = 0x04#8 ∨ o = 0x05#8 ∨ o = 0x06#8 ∨
      o = 0x07#8 ∨ o = 0x08#8 ∨ o = 0x00#8 ∨ 0x09#8 ≤ o := by decide
  have hmode : (∃ i, displayVariants[(Word.a w).toNat]? = some i) ∨ 14#8 ≤ Word.a w := by
    by_cases ha : 14#8 ≤ Word.a w
    · exact .inr ha
    · exact .inl ⟨_, List.getElem?_eq_getElem (BitVec.not_le.mp ha)⟩
  have := hop (Word.op w)
  unfold reservedWord
  tauto

/-- Settles O3: each row of R88 has its own lemma. -/
theorem decoderReadsEveryHeadWord : Obligations.DecoderReadsEveryHeadWord := by
  intro w rest
  refine ⟨decode_begin rest, decode_cls rest, decode_home rest, decode_locate rest,
    fun h i hi => decode_display rest h hi, fun h x0 x1 later hrest => ?_, decode_char rest, decode_write rest,
    decode_reservedWord rest⟩
  rw [hrest, decode_create _ h]
  rfl

/-! ### Encoding and decoding -/

theorem decode_displayWord {mode : Byte} {i : Instr} (hi : displayVariants[mode.toNat]? = some i) (rest : List Word) :
    decode (displayWord mode ++ rest) = .ok (i, rest) :=
  decode_display rest (op_wordOf _ _ _ _) (by rwa [a_wordOf])

/-- The two extension words of a glyph carry it whole (R74). -/
theorem glyphOfWords_wordOf (g : Glyph) :
    glyphOfWords (wordOf g.row0 g.row1 g.row2 g.row3) (wordOf g.row4 g.row5 g.row6 g.row7) = g := by
  simp only [glyphOfWords, op_wordOf, a_wordOf, b_wordOf, c_wordOf]

/-- Settles O1: the head word gives back its operands, and the extension words of `CREATE` the glyph. -/
theorem decodeEncodeRoundTrip : Obligations.DecodeEncodeRoundTrip := by
  intro i rest
  cases i with
  | begin columns rows dotsize => simp [encode, decode_begin, op_wordOf, a_wordOf, b_wordOf, c_wordOf]
  | cls => exact decode_cls rest (op_wordOf _ _ _ _)
  | home => exact decode_home rest (op_wordOf _ _ _ _)
  | locate column row => simp [encode, decode_locate, op_wordOf, a_wordOf, b_wordOf]
  | create location g => simp [encode, decode_create, decodeCreate, op_wordOf, a_wordOf, glyphOfWords_wordOf]
  | char column row c => simp [encode, decode_char, op_wordOf, a_wordOf, b_wordOf, c_wordOf]
  | write value => simp [encode, decode_write, op_wordOf, a_wordOf]
  | _ => exact decode_displayWord rfl rest

/-- Settles O2: the decoder evaluates on each word written out. -/
theorem specWordsDecode : Obligations.SpecWordsDecode := by
  unfold Obligations.SpecWordsDecode
  decide

/-- Only the request of a `CREATE` head word takes words after it (R85). -/
theorem decode_rest_of_not_create {w : Word} {ws rest : List Word} {i : Instr} (h : Word.op w ≠ 0x06#8)
    (hdec : decode (w :: ws) = .ok (i, rest)) : rest = ws := by
  have one_word {j : Instr} (hj : decode (w :: ws) = .ok (j, ws)) : rest = ws := by
    rw [hj] at hdec
    cases hdec
    rfl
  obtain hop | hop | hop | hop | ⟨hop, j, hj⟩ | hop | hop | hop | hres := headWord_cases w
  · exact one_word (decode_begin ws hop)
  · exact one_word (decode_cls ws hop)
  · exact one_word (decode_home ws hop)
  · exact one_word (decode_locate ws hop)
  · exact one_word (decode_display ws hop hj)
  · exact absurd hop h
  · exact one_word (decode_char ws hop)
  · exact one_word (decode_write ws hop)
  · obtain herr | herr := decode_reservedWord ws hres <;> (rw [herr] at hdec; cases hdec)

/-- A `CREATE` is decoded once both its extension words are there, and takes no more. -/
theorem decodeCreate_rest {location : Byte} {ws rest : List Word} {i : Instr}
    (hdec : decodeCreate location ws = .ok (i, rest)) : rest = ws.drop 2 := by
  match ws, hdec with
  | _ :: _ :: _, hdec => cases hdec; rfl

/-- Settles O5: a `CREATE` takes its two extension words, every other request none. -/
theorem lengthFromOpcodeAlone : Obligations.LengthFromOpcodeAlone := by
  refine ⟨fun w ws i rest hdec => ?_, fun w x0 x1 ws h => ⟨_, decode_create _ h⟩⟩
  split
  next h => exact decodeCreate_rest (decode_create ws h ▸ hdec)
  next h => exact decode_rest_of_not_create h hdec

/-! ### Unused fields -/

/-- A head word has 0 in each field its format does not use (R77). -/
def unusedFieldsZero (w : Word) : Prop :=
  ((usedFields (Word.op w)).1 = false → Word.a w = 0#8) ∧
  ((usedFields (Word.op w)).2.1 = false → Word.b w = 0#8) ∧
  ((usedFields (Word.op w)).2.2 = false → Word.c w = 0#8)

/-- Two head words with the same `op` and the same used fields decode alike. -/
theorem decode_congr {v w : Word} (rest : List Word) (hop : Word.op v = Word.op w)
    (ha : (usedFields (Word.op w)).1 = true → Word.a v = Word.a w)
    (hb : (usedFields (Word.op w)).2.1 = true → Word.b v = Word.b w)
    (hc : (usedFields (Word.op w)).2.2 = true → Word.c v = Word.c w) :
    decode (v :: rest) = decode (w :: rest) := by
  obtain h | h | h | h | ⟨h, i, hi⟩ | h | h | h | h | h | ⟨h, hmode⟩ := headWord_cases w
  · rw [decode_begin rest h, decode_begin rest (hop.trans h), ha (h ▸ rfl), hb (h ▸ rfl), hc (h ▸ rfl)]
  · rw [decode_cls rest h, decode_cls rest (hop.trans h)]
  · rw [decode_home rest h, decode_home rest (hop.trans h)]
  · rw [decode_locate rest h, decode_locate rest (hop.trans h), ha (h ▸ rfl), hb (h ▸ rfl)]
  · rw [decode_display rest h hi, decode_display rest (hop.trans h) (ha (h ▸ rfl) ▸ hi)]
  · rw [decode_create rest h, decode_create rest (hop.trans h), ha (h ▸ rfl)]
  · rw [decode_char rest h, decode_char rest (hop.trans h), ha (h ▸ rfl), hb (h ▸ rfl), hc (h ▸ rfl)]
  · rw [decode_write rest h, decode_write rest (hop.trans h), ha (h ▸ rfl)]
  · rw [decode_reservedOpcode rest (.inl h), decode_reservedOpcode rest (.inl (hop.trans h))]
  · rw [decode_reservedOpcode rest (.inr h), decode_reservedOpcode rest (.inr (hop ▸ h))]
  · rw [decode_reservedMode rest h hmode, decode_reservedMode rest (hop.trans h) (ha (h ▸ rfl) ▸ hmode)]

/-- A head word written field by field has 0 in its unused fields when the bytes written there are 0. -/
theorem unused_wordOf {op a b c : Byte} (ha : (usedFields op).1 = false → a = 0#8)
    (hb : (usedFields op).2.1 = false → b = 0#8) (hc : (usedFields op).2.2 = false → c = 0#8) :
    unusedFieldsZero (wordOf op a b c) := by
  simp only [unusedFieldsZero, op_wordOf, a_wordOf, b_wordOf, c_wordOf]
  exact ⟨ha, hb, hc⟩

/-- The head word of every request has 0 in its unused fields. -/
theorem encode_unused {i : Instr} {w : Word} (h : (encode i).head? = some w) : unusedFieldsZero w := by
  cases i with
  | begin | char => cases h; exact unused_wordOf nofun nofun nofun
  | locate => cases h; exact unused_wordOf nofun nofun fun _ => rfl
  | cls | home => cases h; exact unused_wordOf (fun _ => rfl) (fun _ => rfl) fun _ => rfl
  | _ => cases h; exact unused_wordOf nofun (fun _ => rfl) fun _ => rfl

/-- Settles O6: decoding reads only the used fields of a head word, and encoding writes 0 in the others. -/
theorem unusedFieldsAreIgnored : Obligations.UnusedFieldsAreIgnored :=
  ⟨fun _ _ rest => decode_congr rest, fun _ _ => encode_unused⟩

/-! ### The extension words of `CREATE` -/

/-- `CREATE` sends its address command and then the rows of its glyph, with all 8 bits of each (R74, R183). -/
theorem sentBytes_create (r : Regs) (location : Byte) (g : Glyph) :
    sentBytes (eventsOf r (requestLines r (.create location g))) =
      (false, cgramCommand location) :: g.rows.map fun b => (true, b) := by
  have hlatched : latched (eventsOf r (requestLines r (.create location g))) =
      ((false, cgramCommand location) :: g.rows.map fun b => (true, b)).flatMap nibblesOf := by
    simp [requestLines, eventsOf_append, List.flatMap_map]
  rw [sentBytes, hlatched, pairNibbles_flatMap_nibblesOf]

/-- Settles O4: the glyph is the one of the two words, and its rows follow the address command. -/
theorem createExtensionWords : Obligations.CreateExtensionWords := by
  refine fun w x0 x1 rest h => ⟨glyphOfWords x0 x1, decode_create _ h, rfl, fun s hbegun => ?_⟩
  have accepted : refusalOf s.regs (.create (Word.a w) (glyphOfWords x0 x1)) = none :=
    refusalOf_of_begun hbegun nofun
  refine ⟨_, exec_of_accepted accepted, ?_⟩
  rw [eventsSince_completed, sentBytes_create]
  rfl

/-! ### A reserved word at the port -/

/-- An idle block takes a reserved head word, that word alone, and refuses it (R76). -/
theorem fetch_reservedWord {s : State} {w : Word} {later : List HostInput} (hp : s.phase = .idle)
    (hi : s.input = .word w :: later) (hw : reservedWord w) :
    s.fetch = .settled ((s.take 1).refuse .illegalRequest) := by
  obtain hdec | hdec := decode_reservedWord (portWords later) hw <;>
    simp [State.fetch, State.fetchIdle, hp, hi, portWords, hdec]

/-- Settles O7: the step is the refusal of the word taken. -/
theorem reservedWordIsDropped : Obligations.ReservedWordIsDropped := by
  intro s w later hp hi hw
  refine ⟨_, step_eq s, ?_⟩
  simp [fetch_reservedWord hp hi hw, stateAfter, hi, portWords]

/-! ### The variants of `DISPLAY` -/

/-- A request other than `BEGIN` is refused `NotBegun` before a completed `BEGIN` (R201). -/
theorem refusalOf_of_not_begun {r : Regs} (hbegun : r.begun = false) {i : Instr} (hi : ∀ c r d, i ≠ .begin c r d) :
    refusalOf r i = some .notBegun := by
  cases i with
  | begin c r d => exact absurd rfl (hi c r d)
  | _ => simp [refusalOf, hbegun]

theorem exec_of_refused {i : Instr} {s : State} {reason : RefusalReason} (h : refusalOf s.regs i = some reason) :
    exec i s = .next (s.refuse reason) := by
  rw [exec_eq, outcomeOf, h]

theorem ne_begin_of_mem_displayVariants {i : Instr} (h : i ∈ displayVariants) (c r d : Byte) : i ≠ .begin c r d := by
  rintro rfl
  simp [displayVariants] at h

/-- Every variant responds 0 (R150). -/
theorem requestCount_of_mem_displayVariants : ∀ i ∈ displayVariants, requestCount i = 0x00#8 := by
  decide

/-- Settles O31: `a` numbers the list of variants, and each variant is admitted or refused by `begun` alone. -/
theorem displayDispatch : Obligations.DisplayDispatch := by
  refine ⟨fun w rest hop ha => decode_reservedMode rest hop (by bv_omega), fun w i rest s hop hi => ?_⟩
  have hmem : i ∈ displayVariants := List.mem_of_getElem? hi
  have hne := ne_begin_of_mem_displayVariants hmem
  refine ⟨decode_display rest hop hi, fun hbegun => exec_of_refused (refusalOf_of_not_begun hbegun hne),
    fun hbegun => ⟨_, exec_of_accepted (refusalOf_of_begun hbegun hne), ?_, rfl⟩⟩
  rw [requestCount_of_mem_displayVariants i hmem]
  rfl

/-! ### The one reserved operand -/

/-- After a completed `BEGIN` the ill-formed requests are the refused ones (R87, R201). -/
theorem refusalOf_of_begun_eq {r : Regs} (hbegun : r.begun = true) (i : Instr) :
    refusalOf r i = if i.wellFormed then none else some .badGeometry := by
  cases i with
  | begin columns rows dotsize => by_cases h : rows = 0#8 <;> simp [refusalOf, Instr.wellFormed, h]
  | _ => exact refusalOf_of_begun hbegun nofun

/-- Settles O55: a well-formed request completes and leaves the mark, an ill-formed one is refused. -/
theorem oneReservedOperand : Obligations.OneReservedOperand := by
  intro i s hbegun
  have hrefusal := refusalOf_of_begun_eq hbegun i
  refine ⟨fun hwf => ⟨_, exec_of_accepted ?_, rfl⟩, fun hill => exec_of_refused ?_⟩
  · simpa [hwf] using hrefusal
  · simpa [hill] using hrefusal

/-! ### Pseudo-operations -/

theorem length_assemblePrint (columns : Byte) (text : List Byte) :
    (assemblePrint columns text).length = min text.length columns.toNat := by
  simp [assemblePrint, Nat.min_comm]

/-- `PRINT` writes the `k`-th byte by its `k`-th request while `k` is below the columns (R84). -/
theorem getElem?_assemblePrint {columns : Byte} (text : List Byte) {k : Nat} (h : k < columns.toNat) :
    (assemblePrint columns text)[k]? = text[k]?.map .write := by
  rw [assemblePrint, List.getElem?_map, List.getElem?_take_of_lt h]

/-- Settles O54: `PRINT` by the two lemmas above, the rest by evaluation. -/
theorem pseudoOperationsExpand : Obligations.PseudoOperationsExpand :=
  ⟨fun columns text => ⟨length_assemblePrint columns text,
    fun _ hk => getElem?_assemblePrint text (hk.trans_le (Nat.min_le_right _ _))⟩, rfl, rfl, rfl⟩

end Sys2Proof.Machine

namespace Sys2Proof.Machine

/-! ### One byte on the bus -/

/-- Settles O18: `expanderWrite` is one line, and running it is one emission (R100). -/
theorem expanderWriteEmitsOneByte : Obligations.ExpanderWriteEmitsOneByte := fun _ _ => rfl

/-! ### The backlight, RW and EN in the bytes of a request -/

theorem busBytes_append (es fs : List Event) : busBytes (es ++ fs) = busBytes es ++ busBytes fs := by
  induction es with
  | nil => rfl
  | cons e es ih => cases e <;> simp [busBytes, ih]

/-- Legal lines write no byte with RW raised, whatever the bus address (R102 (b)). -/
theorem busBytes_eventsOf_rw (r : Regs) {p : List Micro} (hp : legalProgram p) :
    ∀ b ∈ busBytes (eventsOf r p), b &&& maskRW = 0#8 := by
  induction p generalizing r with
  | nil => exact List.forall_mem_nil _
  | cons m ms ih =>
    obtain ⟨hm, hms⟩ := (legalProgram_cons m ms).mp hp
    cases m with
    | setReg w => exact ih (r.store w) hms
    | expanderWrite d => exact List.forall_mem_cons.mpr ⟨or_backlightMask_rw r hm, ih r hms⟩
    | delay us => exact ih r hms

/-- Bytes that all have bit 3 as the mask `bl` has it, the last one with EN low (R102 (a), R110). -/
structure LitBytes (bl : Byte) (bs : List Byte) : Prop where
  backlight : ∀ b ∈ bs, b &&& maskBL = bl
  enable_last : ∀ b, bs.getLast? = some b → enable b = false

theorem LitBytes.nil (bl : Byte) : LitBytes bl [] := ⟨List.forall_mem_nil _, nofun⟩

theorem LitBytes.append {bl : Byte} {bs cs : List Byte} (hb : LitBytes bl bs) (hc : LitBytes bl cs) :
    LitBytes bl (bs ++ cs) := by
  refine ⟨List.forall_mem_append.mpr ⟨hb.backlight, hc.backlight⟩, fun b h => ?_⟩
  rw [List.getLast?_append, Option.or_eq_some_iff] at h
  obtain h | ⟨-, h⟩ := h
  · exact hc.enable_last b h
  · exact hb.enable_last b h

/-- A program that leaves the backlight as it is, shows it in every byte, and leaves EN low. -/
def LitProgram (p : List Micro) : Prop :=
  ∀ r : Regs, (regsAfter r p).backlightMask = r.backlightMask ∧ LitBytes r.backlightMask (busBytes (eventsOf r p))

/-- Lines that write no byte and leave the backlight as it is. -/
theorem LitProgram.of_silent {p : List Micro} (hr : ∀ r, (regsAfter r p).backlightMask = r.backlightMask)
    (hb : ∀ r, busBytes (eventsOf r p) = []) : LitProgram p :=
  fun r => ⟨hr r, hb r ▸ LitBytes.nil _⟩

theorem LitProgram.append {p q : List Micro} (hp : LitProgram p) (hq : LitProgram q) : LitProgram (p ++ q) := by
  intro r
  obtain ⟨regs_p, bytes_p⟩ := hp r
  obtain ⟨regs_q, bytes_q⟩ := hq (regsAfter r p)
  rw [regsAfter_append, eventsOf_append, busBytes_append]
  exact ⟨regs_q.trans regs_p, bytes_p.append (regs_p ▸ bytes_q)⟩

theorem LitProgram.flatMap {α : Type} {f : α → List Micro} (h : ∀ x, LitProgram (f x)) (xs : List α) :
    LitProgram (xs.flatMap f) := by
  induction xs with
  | nil => exact .of_silent (fun _ => rfl) fun _ => rfl
  | cons x xs ih => exact (h x).append ih

theorem delay_lit (us : Nat) : LitProgram [.delay us] := .of_silent (fun _ => rfl) fun _ => rfl

/-- Only a write of the backlight itself changes what the bytes after it show. -/
theorem LitProgram.setReg {w : RegWrite} (hw : RegName.backlight ≠ w.target) {p : List Micro} (hp : LitProgram p) :
    LitProgram (.setReg w :: p) := by
  intro r
  have stays : r.backlight = (r.store w).backlight := agree_store r hw
  have mask : (r.store w).backlightMask = r.backlightMask := by rw [Regs.backlightMask, ← stays, Regs.backlightMask]
  obtain ⟨regs, bytes⟩ := hp (r.store w)
  exact ⟨regs.trans mask, mask ▸ bytes⟩

/-- The backlight bit shows in a byte whose own bit 3 is clear (R79, R100). -/
theorem or_backlightMask_bl (r : Regs) {d : Byte} (h : d &&& maskBL = 0#8) :
    (d ||| r.backlightMask) &&& maskBL = r.backlightMask := by
  unfold Regs.backlightMask
  cases r.backlight <;> (revert h; revert d; decide)

/-- Forcing EN low or high does not touch bit 3, and the pulse ends with EN low whatever the value (R110, R111). -/
theorem write4bits_lit {v : Byte} (h : v &&& maskBL = 0#8) : LitProgram (write4bits v) := by
  intro r
  have low : (v &&& ~~~maskEN) &&& maskBL = 0#8 := by revert h; revert v; decide
  have high : (v ||| maskEN) &&& maskBL = 0#8 := by revert h; revert v; decide
  have last : enable ((v &&& ~~~maskEN) ||| r.backlightMask) = false := by
    unfold Regs.backlightMask
    cases r.backlight <;> (clear h low high; revert v; decide)
  refine ⟨rfl, ?_, fun b hb => ?_⟩
  · simp [write4bits, pulseEnable, eventsOf, busBytes, Regs.writeEvent, or_backlightMask_bl r, h, low, high]
  · obtain rfl : _ = b := Option.some.inj hb
    exact last

/-- `send` takes only the high four bits of the value, so no value reaches bit 3 (R102, R120). -/
theorem send_lit (v : Byte) {m : Byte} (h : m &&& maskBL = 0#8) : LitProgram (send v m) := by
  have nibble (x : Byte) : ((x &&& 0xF0#8) ||| m) &&& maskBL = 0#8 := by
    rw [BitVec.and_or_distrib_right, h, BitVec.and_assoc]
    simp [maskBL]
  exact (write4bits_lit (nibble v)).append (write4bits_lit (nibble (v <<< 4)))

theorem command_lit (v : Byte) : LitProgram (command v) := send_lit v (by decide)

theorem writeData_lit (v : Byte) : LitProgram (writeData v) := send_lit v (by decide)

theorem sendDisplayControl_lit (v : Byte) : LitProgram (sendDisplayControl v) :=
  .setReg (w := .displayControl v) nofun (command_lit _)

theorem sendEntryMode_lit (v : Byte) : LitProgram (sendEntryMode v) :=
  .setReg (w := .displayMode v) nofun (command_lit _)

theorem clsLines_lit : LitProgram clsLines := (command_lit _).append (delay_lit _)

theorem homeLines_lit : LitProgram homeLines := (command_lit _).append (delay_lit _)

/-- Three nibbles, each with its wait (R133). -/
theorem forceInterface_lit : LitProgram forceInterface := by
  have nibble (us : Nat) : LitProgram (write4bits initNibble ++ [.delay us]) :=
    (write4bits_lit (by decide)).append (delay_lit us)
  exact ((nibble _).append (nibble _)).append (nibble _)

/-- The bring-up rewrites no backlight (R131, R140). -/
theorem beginLines_lit (columns rows dotsize : Byte) : LitProgram (beginLines columns rows dotsize) := by
  have setup : LitProgram (setupRegisters columns rows dotsize) := .of_silent (fun _ => rfl) fun _ => rfl
  have commit : LitProgram commitInterface := write4bits_lit (by decide)
  have control : LitProgram initDisplayControl :=
    .setReg (w := .displayControl lcdDisplayOn) nofun (sendDisplayControl_lit _)
  have begun : LitProgram [.setReg .begun] := .of_silent (fun _ => rfl) fun _ => rfl
  exact ((((((((setup.append (delay_lit _)).append forceInterface_lit).append commit).append (command_lit _)).append
    control).append clsLines_lit).append (sendEntryMode_lit _)).append homeLines_lit).append begun

/-- The new backlight is written before the one byte that shows it (R163, R164). -/
theorem refreshBacklight_litBytes (r : Regs) (on : Bool) :
    LitBytes (regsAfter r (refreshBacklight on)).backlightMask (busBytes (eventsOf r (refreshBacklight on))) := by
  cases on <;> exact ⟨by simp [busBytes, Regs.backlightMask, maskBL], by simp [busBytes, enable, maskEN]⟩

/-- Every request shows the backlight it leaves: only the two backlight requests write it, the others are lit throughout. -/
theorem requestLines_litBytes (r : Regs) (i : Instr) :
    LitBytes (regsAfter r (requestLines r i)).backlightMask (busBytes (eventsOf r (requestLines r i))) := by
  have lit {p : List Micro} (hp : LitProgram p) : LitBytes (regsAfter r p).backlightMask (busBytes (eventsOf r p)) := by
    obtain ⟨regs, bytes⟩ := hp r
    rwa [regs]
  cases i with
  | begin columns rows dotsize => exact lit (beginLines_lit columns rows dotsize)
  | cls => exact lit clsLines_lit
  | home => exact lit homeLines_lit
  | displayOn | displayOff | cursorOn | cursorOff | blinkOn | blinkOff => exact lit (sendDisplayControl_lit _)
  | leftToRight | rightToLeft | autoscrollOn | autoscrollOff => exact lit (sendEntryMode_lit _)
  | locate | scrollLeft | scrollRight => exact lit (command_lit _)
  | backlightOn => exact refreshBacklight_litBytes r true
  | backlightOff => exact refreshBacklight_litBytes r false
  | create location charmap => exact lit ((command_lit _).append (.flatMap writeData_lit _))
  | char column row c => exact lit ((command_lit _).append (writeData_lit c))
  | write value => exact lit (writeData_lit value)

@[simp] theorem eventsSince_refuse (s : State) (reason : RefusalReason) : s.eventsSince (s.refuse reason) = [] := by
  simp [State.eventsSince]

/-- Settles O49: a refused request emits nothing, and the lines of a completed one are legal and lit. -/
theorem everyByteCarriesTheBacklight : Obligations.EveryByteCarriesTheBacklight := by
  intro i s t hexec
  obtain ⟨reason, -, rfl⟩ | ⟨-, rfl⟩ := exec_cases hexec
  · rw [eventsSince_refuse]
    exact ⟨List.forall_mem_nil _, nofun⟩
  · rw [eventsSince_completed]
    obtain ⟨backlight, enable_last⟩ := requestLines_litBytes s.regs i
    have rw_clear := busBytes_eventsOf_rw s.regs (requestLines_legal s.regs i)
    exact ⟨fun b hb => ⟨backlight b hb, rw_clear b hb⟩, enable_last⟩

end Sys2Proof.Machine

namespace Sys2Proof.Machine

/-! ### The enable pulse and the nibble write -/

/-- Lines that write no register add their events and change nothing else. -/
theorem performAll_of_regs_unchanged {s : State} {p : List Micro} (h : regsAfter s.regs p = s.regs) :
    s.performAll p = { s with trace := s.trace ++ eventsOf s.regs p } := by
  rw [performAll_eq, h]

/-- The four bytes of a nibble whose EN is clear (R111). -/
theorem busBytes_nibbleTrace_of_low (r : Regs) {v : Byte} (h : v &&& 0x04#8 = 0#8) :
    busBytes (r.nibbleTrace v) =
      [v ||| r.backlightMask, v ||| r.backlightMask, v ||| r.backlightMask ||| 0x04#8, v ||| r.backlightMask] := by
  rw [nibbleTrace_of_low r v h]
  rfl

/-- Settles O19: the pulse writes no register, and its events are those of R110. -/
theorem pulseEnableTrace : Obligations.PulseEnableTrace := by
  intro s value
  rw [performAll_of_regs_unchanged (regsAfter_pulseEnable s.regs value), eventsOf_pulseEnable]

/-- Settles O20: `write4bits` writes no register; forcing EN low leaves a value with EN clear as it is (R111). -/
theorem write4bitsTrace : Obligations.Write4bitsTrace := by
  refine fun s value => ⟨?_, busBytes_nibbleTrace_of_low s.regs⟩
  rw [performAll_of_regs_unchanged (regsAfter_write4bits s.regs value), eventsOf_write4bits]

end Sys2Proof.Machine

namespace Sys2Proof.Machine

/-! ### The dispatcher: `send` and `WRITE` -/

/-- The nibbles of `send` carry RS as the mode has it, and none follows them (R120, R124). -/
theorem latched_sendTrace (r : Regs) (v : Byte) {m : Byte} (h : m = 0x00#8 ∨ m = 0x01#8) :
    latched (r.sendTrace v m) = [(m == 0x01#8, v.extractLsb' 4 4), (m == 0x01#8, v.extractLsb' 0 4)] := by
  have rs : registerSelect m = (m == 0x01#8) := by
    obtain rfl | rfl := h <;> rfl
  simpa [nibblesOf, rs] using latched_sendTrace_append r v h []

/-- Settles O21: `send` writes no register, and its events are two nibble traces; a mode that leaves EN clear makes them
the trace of R120. -/
theorem sendHighNibbleFirst : Obligations.SendHighNibbleFirst := by
  intro s value mode
  have adds_events := performAll_of_regs_unchanged (regsAfter_send s.regs value mode)
  refine ⟨?_, fun hmode => ⟨?_, latched_sendTrace s.regs value hmode⟩⟩
  · rw [adds_events, eventsOf_send_nibbles]
  · rw [adds_events, eventsOf_send s.regs value mode hmode]

/-- Settles O22: `begun` alone decides whether `WRITE` is admitted; its lines send one data byte, its count is 1. -/
theorem writeSendsOneDataByte : Obligations.WriteSendsOneDataByte := by
  intro value s
  have not_begin : ∀ c r d, Instr.write value ≠ .begin c r d := nofun
  refine ⟨rfl, fun hbegun => ?_, fun hbegun => exec_of_refused (refusalOf_of_not_begun hbegun not_begin)⟩
  rw [exec_of_accepted (refusalOf_of_begun hbegun not_begin), requestLines, regsAfter_writeData, eventsOf_writeData,
    requestCount]

end Sys2Proof.Machine

namespace Sys2Proof.Machine

/-! ### The bring-up -/

/-- The trace of `BEGIN` (R132 to R140), `f` for `displayFunction`. -/
def Regs.bringUpTrace (r : Regs) (f : Byte) : List Event :=
  [.wait 50000] ++ r.nibbleTrace 0x30#8 ++ [.wait 4500] ++ r.nibbleTrace 0x30#8 ++ [.wait 4500] ++
    r.nibbleTrace 0x30#8 ++ [.wait 150] ++ r.nibbleTrace 0x20#8 ++ r.commandTrace (0x20#8 ||| f) ++
    r.commandTrace 0x0C#8 ++ r.commandTrace 0x01#8 ++ [.wait 2000] ++ r.commandTrace 0x06#8 ++
    r.commandTrace 0x02#8 ++ [.wait 2000]

/-- State 2 (R133). -/
theorem eventsOf_forceInterface (r : Regs) :
    eventsOf r forceInterface =
      r.nibbleTrace 0x30#8 ++ [.wait 4500] ++ (r.nibbleTrace 0x30#8 ++ [.wait 4500]) ++
        (r.nibbleTrace 0x30#8 ++ [.wait 150]) := rfl

/-- State 5 (R136): the register write before `display(DISPLAY_ON)` emits nothing. -/
theorem eventsOf_initDisplayControl (r : Regs) : eventsOf r initDisplayControl = r.commandTrace 0x0C#8 := by
  simp only [initDisplayControl, displayOnLines, eventsOf, eventsOf_sendDisplayControl]
  exact commandTrace_congr rfl rfl _

/-- The registers `BEGIN` writes on the way occur in no event. -/
theorem eventsOf_beginLines (r : Regs) (columns rows dotsize : Byte) :
    eventsOf r (beginLines columns rows dotsize) = r.bringUpTrace (functionFlags rows dotsize) := by
  simp only [beginLines, eventsOf_append, eventsOf_forceInterface, commitInterface, eventsOf_write4bits, functionSet,
    eventsOf_command, eventsOf_initDisplayControl, eventsOf_clsLines, initEntryMode, eventsOf_sendEntryMode,
    eventsOf_homeLines, Regs.bringUpTrace, List.append_assoc]
  rfl

/-- `displayFunction` with the numbers of R82 written out. -/
theorem functionFlags_eq (rows dotsize : Byte) :
    functionFlags rows dotsize = (if 1 < rows.toNat then 0x08#8 else 0x00#8) |||
      (if dotsize ≠ 0#8 ∧ rows = 1#8 then 0x04#8 else 0x00#8) := rfl

/-- With at least one row `BEGIN` completes, from every state. -/
theorem exec_begin_of_rows {rows : Byte} (h : rows ≠ 0#8) (columns dotsize : Byte) (s : State) :
    exec (.begin columns rows dotsize) s = .next (s.completed (regsAfter s.regs (beginLines columns rows dotsize))
      (s.regs.bringUpTrace (functionFlags rows dotsize)) 0x00#8) := by
  have accepted : refusalOf s.regs (.begin columns rows dotsize) = none := by simp [refusalOf, h]
  rw [exec_of_accepted accepted, requestLines, eventsOf_beginLines]
  rfl

/-- Settles O23: with a row `BEGIN` completes with the registers and the events of its lines; without one it is refused. -/
theorem beginRunsTheBringUp : Obligations.BeginRunsTheBringUp := by
  refine fun columns rows dotsize s => ⟨rfl, fun hrows => ?_, fun hrows => exec_of_refused ?_⟩
  · rw [exec_begin_of_rows hrows, regsAfter_beginLines, functionFlags_eq, Regs.bringUpTrace]
  · simp [refusalOf, hrows]

/-- The function-set command has the low nibble of `displayFunction` under the nibble 2 (R135). -/
theorem nibblesOf_functionSet (rows dotsize : Byte) :
    nibblesOf (false, 0x20#8 ||| functionFlags rows dotsize) =
      [(false, 2#4), (false, (functionFlags rows dotsize).extractLsb' 0 4)] := by
  obtain h | h | h := functionFlags_values rows dotsize <;> rw [h] <;> decide

/-- Settles O51: four lone nibbles (R133, R134), then the two nibbles of each of the five commands. -/
theorem beginLatchesFourteenNibbles : Obligations.BeginLatchesFourteenNibbles := by
  intro c r d s t hr hexec
  rw [exec_begin_of_rows hr] at hexec
  injection hexec with ht
  rw [← ht, eventsSince_completed, completed_regs, regsAfter_beginLines]
  simp only [Regs.bringUpTrace, List.append_assoc, List.cons_append, List.nil_append, latched_wait_cons,
    latched_nibbleTrace_append s.regs (show 0x30#8 &&& 0x04#8 = 0#8 by decide),
    latched_nibbleTrace_append s.regs (show 0x20#8 &&& 0x04#8 = 0#8 by decide),
    latched_commandTrace_append, latched_nil, nibblesOf_functionSet]
  rfl

/-! ### The counts of the bring-up -/

theorem waits_append (es fs : List Event) : waits (es ++ fs) = waits es ++ waits fs := by
  induction es with
  | nil => rfl
  | cons e es ih => cases e <;> simp [waits, ih]

theorem countsOf_append (es fs : List Event) : countsOf (es ++ fs) = countsOf es + countsOf fs := by
  simp [countsOf, minimumTime, busBytes_append, waits_append]

theorem countsOf_wait (us : Nat) : countsOf [.wait us] = (0, 1, us) := rfl

theorem countsOf_nibbleTrace (r : Regs) (v : Byte) : countsOf (r.nibbleTrace v) = (4, 3, 42) := rfl

theorem countsOf_commandTrace (r : Regs) (v : Byte) : countsOf (r.commandTrace v) = (8, 6, 84) := rfl

/-- The row of `BEGIN` in the table of R236, summed over the parts of its trace. -/
theorem countsOf_bringUpTrace (r : Regs) (f : Byte) : countsOf (r.bringUpTrace f) = (56, 48, 63738) := by
  simp only [Regs.bringUpTrace, countsOf_append, countsOf_wait, countsOf_nibbleTrace, countsOf_commandTrace]
  rfl

/-! ### A `BEGIN` in any state -/

/-- The bring-up reads no register but the bus address and the backlight (R100). -/
theorem bringUpTrace_congr {r q : Regs} (ha : r.i2cAddr = q.i2cAddr) (hb : r.backlight = q.backlight) (f : Byte) :
    r.bringUpTrace f = q.bringUpTrace f := by
  simp only [Regs.bringUpTrace, nibbleTrace_congr ha hb, commandTrace_congr ha hb]

/-- Settles O53: of the registers `BEGIN` finds, its lines keep only the bus address and the backlight, and its events
depend on no other. -/
theorem secondBeginStartsAfresh : Obligations.SecondBeginStartsAfresh := by
  intro c r d s s' hr ha hb
  have same_regs : regsAfter s.regs (beginLines c r d) = regsAfter s'.regs (beginLines c r d) := by
    simp only [regsAfter_beginLines, ha, hb]
  refine ⟨_, _, exec_begin_of_rows hr c d s, exec_begin_of_rows hr c d s', same_regs, ?_, ?_, ?_⟩
  · rw [eventsSince_completed, eventsSince_completed, bringUpTrace_congr ha hb]
  · rw [eventsSince_completed, countsOf_bringUpTrace]
  · exact ⟨rfl, rfl, rfl, rfl, functionFlags_eq r d, rfl, rfl, rfl⟩

end Sys2Proof.Machine

namespace Sys2Proof.Machine

/-! ### Setting and clearing the bits of a mask -/

section Mask
variable {w : Nat} {v m : BitVec w}

theorem or_and_not (v m : BitVec w) : (v ||| m) &&& ~~~m = v &&& ~~~m := by
  rw [BitVec.and_or_distrib_right, BitVec.and_not_self]
  exact BitVec.or_zero

theorem and_not_or (v m : BitVec w) : (v &&& ~~~m) ||| m = v ||| m := by
  ext k hk
  simp [Bool.or_and_distrib_right]

/-- A word is its part outside the mask and its part under it. -/
theorem and_not_or_and (v m : BitVec w) : (v &&& ~~~m) ||| (v &&& m) = v := by
  rw [← BitVec.and_or_distrib_left, BitVec.not_or_self, BitVec.and_allOnes]

theorem and_not_of_clear (h : v &&& m = 0#w) : v &&& ~~~m = v := by
  simpa [h] using and_not_or_and v m

theorem or_of_set (h : v &&& m = m) : v ||| m = v := by
  rw [← and_not_or]
  simpa only [h] using and_not_or_and v m

/-- Of a mask of one bit a word has all if it has any. -/
theorem and_eq_of_one_bit (hm : ∃ k, m = BitVec.twoPow w k) (h : v &&& m ≠ 0#w) : v &&& m = m := by
  obtain ⟨k, rfl⟩ := hm
  rw [BitVec.and_twoPow] at h ⊢
  split at h
  next hk => rw [if_pos hk]
  next => exact absurd rfl h

end Mask

/-! ### The two accumulated control bytes -/

/-- The registers that a flag variant of `DISPLAY` changes by one bit and sends whole (R25, R26). -/
inductive ControlByte where
  | displayControl
  | displayMode

namespace ControlByte

def read (r : Regs) : ControlByte → Byte
  | displayControl => r.displayControl
  | displayMode => r.displayMode

def store (r : Regs) (v : Byte) : ControlByte → Regs
  | displayControl => { r with displayControl := v }
  | displayMode => { r with displayMode := v }

/-- The command code the byte is sent under (R81). -/
def code : ControlByte → Byte
  | displayControl => 0x08#8
  | displayMode => 0x04#8

/-- The lines that give the register a value and send it. -/
def sendLines (v : Byte) : ControlByte → List Micro
  | displayControl => sendDisplayControl v
  | displayMode => sendEntryMode v

/-- The state after a request that gave the register the value `v` and sent it. -/
def sent (c : ControlByte) (s : State) (v : Byte) : State :=
  s.completed (c.store s.regs v) (s.regs.commandTrace (c.code ||| v)) 0x00#8

variable (c : ControlByte) (r : Regs) (s : State) (u v : Byte)

@[simp] theorem read_store : c.read (c.store r v) = v := by cases c <;> rfl
@[simp] theorem store_store : c.store (c.store r u) v = c.store r v := by cases c <;> rfl
@[simp] theorem store_read : c.store r (c.read r) = r := by cases c <;> rfl
@[simp] theorem store_begun : (c.store r v).begun = r.begun := by cases c <;> rfl

/-- A control byte is not among the registers a trace depends on (R100). -/
@[simp] theorem commandTrace_store : (c.store r u).commandTrace v = r.commandTrace v := by
  cases c <;> exact commandTrace_congr rfl rfl v

@[simp] theorem regsAfter_sendLines : regsAfter r (c.sendLines v) = c.store r v := by cases c <;> rfl

@[simp] theorem eventsOf_sendLines : eventsOf r (c.sendLines v) = r.commandTrace (c.code ||| v) := by
  cases c with
  | displayControl => exact eventsOf_sendDisplayControl r v
  | displayMode => exact eventsOf_sendEntryMode r v

@[simp] theorem sent_regs : (c.sent s v).regs = c.store s.regs v := rfl
@[simp] theorem sent_trace : (c.sent s v).trace = s.trace ++ s.regs.commandTrace (c.code ||| v) := rfl

end ControlByte

/-! ### The variants one by one -/

section Variant
variable {s : State} (hbegun : s.regs.begun = true) {i : Instr} (hi : i ∈ displayVariants)
include hbegun hi

/-- An admitted variant completes with its lines and responds 0 (R150). -/
theorem exec_displayVariant :
    exec i s = .next (s.completed (regsAfter s.regs (requestLines s.regs i))
      (eventsOf s.regs (requestLines s.regs i)) 0x00#8) := by
  rw [exec_of_accepted (refusalOf_of_begun hbegun (ne_begin_of_mem_displayVariants hi)),
    requestCount_of_mem_displayVariants i hi]

/-- An admitted flag variant leaves the new byte in its register and sends it whole (R151 to R156, R159 to R162). -/
theorem exec_flagVariant {c : ControlByte} {v : Byte} (hlines : requestLines s.regs i = c.sendLines v) :
    exec i s = .next (c.sent s v) := by
  rw [exec_displayVariant hbegun hi, hlines, c.regsAfter_sendLines, c.eventsOf_sendLines, ControlByte.sent]

theorem exec_scrollVariant {v : Byte} (hlines : requestLines s.regs i = command v) :
    exec i s = .next (s.completed s.regs (s.regs.commandTrace v) 0x00#8) := by
  rw [exec_displayVariant hbegun hi, hlines, regsAfter_command, eventsOf_command]

/-- The refresh reads the backlight after it is written (R163, R164). -/
theorem exec_backlightVariant {on : Bool} (hlines : requestLines s.regs i = refreshBacklight on) :
    exec i s = .next (s.completed { s.regs with backlight := on }
      [.busWrite s.regs.i2cAddr (if on then 0x08#8 else 0x00#8)] 0x00#8) := by
  rw [exec_displayVariant hbegun hi, hlines, regsAfter_refreshBacklight, eventsOf_refreshBacklight]

end Variant

/-! ### On/off pairs -/

/-- `on` sets and `off` clears the one bit `m` of the register `c`, and each sends the register. -/
structure IsOnOffPair (c : ControlByte) (on off : Instr) (m : Byte) : Prop where
  on_variant : on ∈ displayVariants
  off_variant : off ∈ displayVariants
  on_lines : ∀ r, requestLines r on = c.sendLines (c.read r ||| m)
  off_lines : ∀ r, requestLines r off = c.sendLines (c.read r &&& ~~~m)
  one_bit : ∃ k, m = BitVec.twoPow 8 k

theorem displayOn_displayOff_isOnOffPair : IsOnOffPair .displayControl .displayOn .displayOff 0x04#8 :=
  ⟨by decide, by decide, fun _ => rfl, fun _ => rfl, 2, rfl⟩

theorem cursorOn_cursorOff_isOnOffPair : IsOnOffPair .displayControl .cursorOn .cursorOff 0x02#8 :=
  ⟨by decide, by decide, fun _ => rfl, fun _ => rfl, 1, rfl⟩

theorem blinkOn_blinkOff_isOnOffPair : IsOnOffPair .displayControl .blinkOn .blinkOff 0x01#8 :=
  ⟨by decide, by decide, fun _ => rfl, fun _ => rfl, 0, rfl⟩

theorem leftToRight_rightToLeft_isOnOffPair : IsOnOffPair .displayMode .leftToRight .rightToLeft 0x02#8 :=
  ⟨by decide, by decide, fun _ => rfl, fun _ => rfl, 1, rfl⟩

theorem autoscrollOn_autoscrollOff_isOnOffPair : IsOnOffPair .displayMode .autoscrollOn .autoscrollOff 0x01#8 :=
  ⟨by decide, by decide, fun _ => rfl, fun _ => rfl, 0, rfl⟩

namespace IsOnOffPair

variable {c : ControlByte} {on off : Instr} {m : Byte} (pair : IsOnOffPair c on off m)
include pair

section Exec
variable {s : State} (hbegun : s.regs.begun = true)
include hbegun

theorem exec_on : exec on s = .next (c.sent s (c.read s.regs ||| m)) :=
  exec_flagVariant hbegun pair.on_variant (pair.on_lines s.regs)

theorem exec_off : exec off s = .next (c.sent s (c.read s.regs &&& ~~~m)) :=
  exec_flagVariant hbegun pair.off_variant (pair.off_lines s.regs)

/-- After `on` the bit is cleared again, whatever it was before. -/
theorem exec_off_after_on :
    exec off (c.sent s (c.read s.regs ||| m)) =
      .next (c.sent (c.sent s (c.read s.regs ||| m)) (c.read s.regs &&& ~~~m)) := by
  rw [pair.exec_off (by simpa using hbegun), c.sent_regs, c.read_store, or_and_not]

/-- After `off` the bit is set again, whatever it was before. -/
theorem exec_on_after_off :
    exec on (c.sent s (c.read s.regs &&& ~~~m)) =
      .next (c.sent (c.sent s (c.read s.regs &&& ~~~m)) (c.read s.regs ||| m)) := by
  rw [pair.exec_on (by simpa using hbegun), c.sent_regs, c.read_store, and_not_or]

end Exec

/-- R165 for a pair: on then off ends with the bit clear, off then on with the bit set, and the whole byte is sent each
time. -/
theorem restores {s : State} (hbegun : s.regs.begun = true) :
    ∃ t u t' u', exec on s = .next t ∧ exec off t = .next u ∧ exec off s = .next t' ∧ exec on t' = .next u' ∧
      t.regs = c.store s.regs (c.read s.regs ||| m) ∧ t'.regs = c.store s.regs (c.read s.regs &&& ~~~m) ∧
      (c.read s.regs &&& m = 0#8 → u.regs = s.regs) ∧
      (c.read s.regs &&& m ≠ 0#8 → c.read u.regs = c.read s.regs &&& ~~~m ∧ u'.regs = s.regs) ∧
      u.trace = s.trace ++ s.regs.commandTrace (c.code ||| (c.read s.regs ||| m)) ++
        s.regs.commandTrace (c.code ||| (c.read s.regs &&& ~~~m)) ∧
      u'.trace = s.trace ++ s.regs.commandTrace (c.code ||| (c.read s.regs &&& ~~~m)) ++
        s.regs.commandTrace (c.code ||| (c.read s.regs ||| m)) := by
  refine ⟨_, _, _, _, pair.exec_on hbegun, pair.exec_off_after_on hbegun, pair.exec_off hbegun,
    pair.exec_on_after_off hbegun, rfl, rfl, fun hclear => ?_, fun hset => ⟨?_, ?_⟩, ?_, ?_⟩
  · simp [and_not_of_clear hclear]
  · simp
  · simp [or_of_set (and_eq_of_one_bit pair.one_bit hset)]
  · simp
  · simp

end IsOnOffPair

/-- Settles O52: each listed pair sets and clears its own bit of one register. -/
theorem onOffPairsRestore : Obligations.OnOffPairsRestore := by
  refine ⟨fun s on off m hbegun hmem => ?_, fun s on off m hbegun hmem => ?_⟩
  · have pair : IsOnOffPair .displayControl on off m := by
      simp only [List.mem_cons, List.not_mem_nil, or_false, Prod.mk.injEq] at hmem
      obtain ⟨rfl, rfl, rfl⟩ | ⟨rfl, rfl, rfl⟩ | ⟨rfl, rfl, rfl⟩ := hmem
      · exact displayOn_displayOff_isOnOffPair
      · exact cursorOn_cursorOff_isOnOffPair
      · exact blinkOn_blinkOff_isOnOffPair
    exact pair.restores hbegun
  · have pair : IsOnOffPair .displayMode on off m := by
      simp only [List.mem_cons, List.not_mem_nil, or_false, Prod.mk.injEq] at hmem
      obtain ⟨rfl, rfl, rfl⟩ | ⟨rfl, rfl, rfl⟩ := hmem
      · exact leftToRight_rightToLeft_isOnOffPair
      · exact autoscrollOn_autoscrollOff_isOnOffPair
    exact pair.restores hbegun

/-! ### The result of each variant -/

/-- Settles O24: the pair of `displayControl` on bit 2. -/
theorem displayOnOffResult : Obligations.DisplayOnOffResult :=
  ⟨rfl, rfl, fun _ hbegun =>
    ⟨displayOn_displayOff_isOnOffPair.exec_on hbegun, displayOn_displayOff_isOnOffPair.exec_off hbegun⟩⟩

/-- Settles O25: the pair of `displayControl` on bit 1. -/
theorem cursorOnOffResult : Obligations.CursorOnOffResult :=
  ⟨rfl, rfl, fun _ hbegun =>
    ⟨cursorOn_cursorOff_isOnOffPair.exec_on hbegun, cursorOn_cursorOff_isOnOffPair.exec_off hbegun⟩⟩

/-- Settles O26: the pair of `displayControl` on bit 0. -/
theorem blinkOnOffResult : Obligations.BlinkOnOffResult :=
  ⟨rfl, rfl, fun _ hbegun =>
    ⟨blinkOn_blinkOff_isOnOffPair.exec_on hbegun, blinkOn_blinkOff_isOnOffPair.exec_off hbegun⟩⟩

/-- Settles O27: the lines of a scroll are one command and no register write. -/
theorem scrollResult : Obligations.ScrollResult :=
  ⟨rfl, rfl, fun _ hbegun =>
    ⟨exec_scrollVariant hbegun (by decide) rfl, exec_scrollVariant hbegun (by decide) rfl⟩⟩

/-- Settles O28: the pair of `displayMode` on bit 1. -/
theorem entryDirectionResult : Obligations.EntryDirectionResult :=
  ⟨rfl, rfl, fun _ hbegun =>
    ⟨leftToRight_rightToLeft_isOnOffPair.exec_on hbegun, leftToRight_rightToLeft_isOnOffPair.exec_off hbegun⟩⟩

/-- Settles O29: the pair of `displayMode` on bit 0. -/
theorem autoscrollResult : Obligations.AutoscrollResult :=
  ⟨rfl, rfl, fun _ hbegun =>
    ⟨autoscrollOn_autoscrollOff_isOnOffPair.exec_on hbegun, autoscrollOn_autoscrollOff_isOnOffPair.exec_off hbegun⟩⟩

/-- Settles O30: the refresh carries the bit just written, and one byte makes no falling edge of EN. -/
theorem backlightResult : Obligations.BacklightResult :=
  ⟨rfl, rfl, fun _ hbegun =>
    ⟨exec_backlightVariant hbegun (by decide) rfl, exec_backlightVariant hbegun (by decide) rfl,
      latched_singleton _, latched_singleton _⟩⟩

end Sys2Proof.Machine

namespace Sys2Proof.Machine

/-! ### Requests that write no register -/

section Content
variable {s : State} {i : Instr} (hi : ∀ c r d, i ≠ .begin c r d)
include hi

theorem exec_of_not_begun (hbegun : s.regs.begun = false) : exec i s = .next (s.refuse .notBegun) :=
  exec_of_refused (refusalOf_of_not_begun hbegun hi)

/-- Once admitted, a request whose lines write no register only adds its events and its response (R35). -/
theorem exec_of_regs_unchanged {es : List Event} (hregs : regsAfter s.regs (requestLines s.regs i) = s.regs)
    (hevents : eventsOf s.regs (requestLines s.regs i) = es) (hbegun : s.regs.begun = true) :
    exec i s = .next (s.completed s.regs es (requestCount i)) := by
  rw [exec_of_accepted (refusalOf_of_begun hbegun hi), hregs, hevents]

end Content

/-! ### `CLS` and `HOME` -/

/-- Settles O32: the lines are one command and the wait. -/
theorem clsResult : Obligations.ClsResult := fun s =>
  ⟨rfl, exec_of_regs_unchanged (by nofun) (regsAfter_clsLines s.regs) (eventsOf_clsLines s.regs),
    exec_of_not_begun nofun⟩

/-- Settles O33: the lines are one command and the wait. -/
theorem homeResult : Obligations.HomeResult := fun s =>
  ⟨rfl, exec_of_regs_unchanged (by nofun) (regsAfter_homeLines s.regs) (eventsOf_homeLines s.regs),
    exec_of_not_begun nofun⟩

/-! ### The cell address: `LOCATE` and `CHAR` -/

/-- Settles O35: the clamped row is the last valid row, at most 3, and 0 where the only row is row 0. -/
theorem rowClampIsTheMinimum : Obligations.RowClampIsTheMinimum := by
  intro row rows hrows
  have hclamp : (clampRow row rows).toNat = min row.toNat (min 3 (rows.toNat - 1)) := clampRow_toNat row hrows
  refine ⟨hclamp, tableIndex_val (by omega), fun hone => BitVec.eq_of_toNat_eq ?_⟩
  rw [hclamp, hone]
  simp

@[simp] theorem regsAfter_locateLines (r q : Regs) (column row : Byte) :
    regsAfter r (q.locateLines column row) = r :=
  regsAfter_command r _

theorem eventsOf_locateLines {r : Regs} (hrows : r.rows ≠ 0#8) (column row : Byte) :
    eventsOf r (r.locateLines column row) = r.commandTrace (r.cellCommand column row) := by
  rw [Regs.locateLines, eventsOf_command, ddramCommand_eq_cellCommand hrows]

/-- Settles O34: the lines are the one command of the clamped cell. -/
theorem locateSetsTheClampedAddress : Obligations.LocateSetsTheClampedAddress := fun column row s =>
  ⟨rfl, fun hbegun hrows => exec_of_regs_unchanged (by nofun) (regsAfter_locateLines s.regs s.regs column row)
    (eventsOf_locateLines hrows column row) hbegun, exec_of_not_begun nofun⟩

/-- Settles O39: the lines are those of `LOCATE` and then one data byte; the count of the `write` is dropped. -/
theorem charIsLocateThenWrite : Obligations.CharIsLocateThenWrite := by
  refine fun column row c s => ⟨rfl, fun hbegun hrows => ?_, exec_of_not_begun nofun⟩
  refine exec_of_regs_unchanged (by nofun) ?regs ?events hbegun
  case regs => rw [requestLines, regsAfter_append, regsAfter_locateLines, regsAfter_writeData]
  case events =>
    rw [requestLines, eventsOf_append, eventsOf_locateLines hrows, regsAfter_locateLines, eventsOf_writeData]

/-! ### The glyph slot: `CREATE` -/

/-- Settles O37: the lines are the address command and one data byte per row of the glyph. -/
theorem createUploadsTheGlyph : Obligations.CreateUploadsTheGlyph := by
  refine fun location g s => ⟨rfl, exec_of_regs_unchanged (by nofun) ?regs ?events, exec_of_not_begun nofun⟩
  case regs => rw [requestLines, regsAfter_append, regsAfter_command, regsAfter_glyphLines]
  case events =>
    rw [requestLines, eventsOf_append, eventsOf_command, regsAfter_command, eventsOf_glyphLines]
    simp [Glyph.rows, cgramCommand, lcdSetCgramAddr]

/-- The address byte of a slot as a number: the masked location, shifted past the three row bits, leaves bit 6 alone. -/
theorem cgramCommand_toNat (location : Byte) : (cgramCommand location).toNat = 0x40 + 8 * (location.toNat % 8) := by
  revert location
  decide

theorem cgramCommand_congr {m n : Byte} (h : m.toNat % 8 = n.toNat % 8) : cgramCommand m = cgramCommand n :=
  BitVec.eq_of_toNat_eq (by rw [cgramCommand_toNat, cgramCommand_toNat, h])

/-- Settles O38: the location enters the lines of `CREATE` by its address command alone. -/
theorem createMasksTheLocation : Obligations.CreateMasksTheLocation := by
  refine fun m n g s h => ⟨?_, cgramCommand_toNat m⟩
  have same_lines : requestLines s.regs (.create m g) = requestLines s.regs (.create n g) := by
    rw [requestLines, requestLines, cgramCommand_congr h]
  simp only [exec_eq, outcomeOf, refusalOf, same_lines, requestCount]

end Sys2Proof.Machine

namespace Sys2Proof.Machine

/-! ### Exceptions: the three refusals, their order, and nothing by halves -/

/-- Settles O9: `exec` and the fetch both lead to a next state. -/
theorem stepAlwaysAnswersNext : Obligations.StepAlwaysAnswersNext := fun s => ⟨_, step_eq s⟩

/-- `BEGIN` without a row is refused in every state (R130, R201). -/
theorem refusalOf_begin_no_rows (r : Regs) (columns dotsize : Byte) :
    refusalOf r (.begin columns 0#8 dotsize) = some .badGeometry := rfl

/-- `BEGIN` is never `NotBegun` (R204). -/
theorem eq_badGeometry_of_refusalOf_begin {r : Regs} {columns rows dotsize : Byte} {reason : RefusalReason}
    (h : refusalOf r (.begin columns rows dotsize) = some reason) : reason = .badGeometry := by
  by_cases hrows : rows = 0#8
  · simpa [refusalOf, hrows, eq_comm] using h
  · simp [refusalOf, hrows] at h

/-- Settles O40: two reasons come from admission and one from the decoder; the mark of a step is O13's. -/
theorem refusedRequestOutcome : Obligations.RefusedRequestOutcome :=
  ⟨fun _ _ hi hbegun => exec_of_not_begun hi hbegun,
    fun c d s => exec_of_refused (refusalOf_begin_no_rows s.regs c d),
    reservedWordIsDropped,
    fun s t hstep => (stepOnlyAppends s t hstep).2.2⟩

/-- Settles O41: a reserved mode never reaches admission, and a request is refused with one mark or completes
with none. -/
theorem refusalOrder : Obligations.RefusalOrder := by
  refine ⟨fun s w later hp hi hop ha _ => ?decoding_first, fun c r d s t hexec => ?begin,
    fun i s t hexec => ?one_reason⟩
  case decoding_first =>
    have hw : reservedWord w := .inr (.inr ⟨hop, by bv_omega⟩)
    obtain ⟨t, hstep, -, -, -, -, -, hmark⟩ := reservedWordIsDropped s w later hp hi hw
    exact ⟨t, hstep, hmark⟩
  case begin =>
    obtain ⟨reason, hreason, rfl⟩ | ⟨-, rfl⟩ := exec_cases hexec
    · rw [eq_badGeometry_of_refusalOf_begin hreason]
      exact .inr rfl
    · exact .inl rfl
  case one_reason =>
    obtain ⟨reason, -, rfl⟩ | ⟨-, rfl⟩ := exec_cases hexec <;> simp

/-! ### The counts of a request -/

theorem countsOf_dataTrace (r : Regs) (v : Byte) : countsOf (r.dataTrace v) = (8, 6, 84) := rfl

/-- The lines of a request emit the events of its row in the table of R236, whatever the registers. -/
theorem countsOf_requestLines (r : Regs) (i : Instr) : countsOf (eventsOf r (requestLines r i)) = requestCounts i := by
  cases i with
  | begin columns rows dotsize => rw [requestLines, eventsOf_beginLines, countsOf_bringUpTrace, requestCounts]
  | cls => rw [requestLines, eventsOf_clsLines, countsOf_append, countsOf_commandTrace, countsOf_wait]; rfl
  | home => rw [requestLines, eventsOf_homeLines, countsOf_append, countsOf_commandTrace, countsOf_wait]; rfl
  | backlightOn | backlightOff => rfl
  | create location g =>
    rw [requestLines, eventsOf_append, eventsOf_command, eventsOf_glyphLines, countsOf_append, countsOf_commandTrace]
    simp [Glyph.rows, countsOf_append, countsOf_dataTrace, requestCounts]
  | char column row c =>
    rw [requestLines, Regs.locateLines, eventsOf_append, eventsOf_command, eventsOf_writeData, countsOf_append,
      countsOf_commandTrace, countsOf_dataTrace]
    rfl
  | write value => rw [requestLines, eventsOf_writeData, countsOf_dataTrace, requestCounts]
  | _ =>
    simp only [requestLines, Regs.locateLines, eventsOf_command, eventsOf_sendDisplayControl, eventsOf_sendEntryMode,
      countsOf_commandTrace, requestCounts]

/-- Settles O42: a request that is not refused runs its lines to the end; a refused one runs none of them. -/
theorem wholeOrNotAtAll : Obligations.WholeOrNotAtAll := by
  intro i s t hexec
  obtain ⟨reason, -, rfl⟩ | ⟨-, rfl⟩ := exec_cases hexec
  · exact ⟨rfl, .inr ⟨rfl, rfl, rfl, reason, rfl⟩⟩
  · refine ⟨rfl, .inl ⟨rfl, ?_⟩⟩
    rw [eventsSince_completed, countsOf_requestLines]

end Sys2Proof.Machine

namespace Sys2Proof.Machine

/-! ### Reset inside a request -/

/-- The step of a request: what `exec` makes of it, under the reset the host asserts next, if any (R221). -/
theorem step_request {s t : State} {i : Instr} {ws : List Word} {later : List HostInput} (hp : s.phase = .idle)
    (hi : s.input = ws.map .word ++ later) (hd : decode ws = .ok (i, []))
    (hexec : exec i { s with reqWord := ws.headD 0#32, input := later } = .next t) :
    step s = .next (State.underReset { s with reqWord := ws.headD 0#32, input := later } t) := by
  rw [step, fetch_request hp hi hd]
  simp only [hexec, State.settle]

/-- With an event after event `k`, the reset cuts the request after event `k`. -/
theorem underReset_of_lt {s t : State} {k : Nat} {later : List HostInput} (hi : t.input = .resetDuring k :: later)
    (hk : k + 1 < (s.eventsSince t).length) :
    s.underReset t = { s with trace := s.trace ++ (s.eventsSince t).take (k + 1) }.takeReset later := by
  rw [State.underReset, hi]
  exact if_pos hk

/-- Without an event after event `k`, the request ends as it does without the reset. -/
theorem underReset_of_le {s t : State} {k : Nat} {later : List HostInput} (hi : t.input = .resetDuring k :: later)
    (hk : (s.eventsSince t).length ≤ k + 1) : s.underReset t = t := by
  rw [State.underReset, hi]
  exact if_neg (Nat.not_lt.mpr hk)

/-- Settles O17: the request leaves the reset next at the port, and it is early enough to cut the request short. -/
theorem resetInsideRequest : Obligations.ResetInsideRequest := by
  intro s t i ws k later hp hi hd hexec hk
  obtain ⟨hinput, -⟩ := requestFrame i _ t hexec
  exact ⟨_, (step_request hp hi hd hexec).trans (congrArg _ (underReset_of_lt hinput hk)),
    rfl, rfl, rfl, rfl, rfl, rfl⟩

/-! ### Reset at an idle block -/

/-- An idle block takes a reset next at the port, whichever form the host asserts it in (R220, log 8). -/
theorem step_of_idle_reset {s : State} {later : List HostInput} (hp : s.phase = .idle)
    (hi : s.input = .reset :: later ∨ ∃ k, s.input = .resetDuring k :: later) :
    step s = .next (s.takeReset later) := by
  rw [step_eq, State.fetch, hp]
  obtain hi | ⟨k, hi⟩ := hi <;> rw [hi] <;> rfl

/-- Settles O56: the reset comes too late to cut the request, so the idle block it leaves takes it. -/
theorem resetAtTheLastEvent : Obligations.ResetAtTheLastEvent := by
  intro s t i ws k later hp hi hd hexec hk
  obtain ⟨hinput, -, hidle, -⟩ := requestFrame i _ t hexec
  exact ⟨(step_request hp hi hd hexec).trans (congrArg _ (underReset_of_le hinput hk)),
    _, step_of_idle_reset hidle (.inr ⟨k, hinput⟩), rfl, rfl, rfl, rfl, rfl, rfl⟩

/-- Settles O16: the idle block takes the reset. -/
theorem resetBetweenRequests : Obligations.ResetBetweenRequests := fun _ _ hp hi =>
  ⟨_, step_of_idle_reset hp (.inl hi), rfl, rfl, rfl, rfl, rfl⟩

/-! ### A busy block -/

/-- `s` with other inputs at the port and another word latched. -/
def State.withPort (s : State) (port : List HostInput) (word : Word) : State :=
  { s with input := port, reqWord := word }

section Port
variable (s : State) (port : List HostInput) (word : Word)

theorem withPort_perform (m : Micro) : (s.withPort port word).perform m = (s.perform m).withPort port word := by
  cases m <;> rfl

theorem withPort_performAll (p : List Micro) :
    (s.withPort port word).performAll p = (s.performAll p).withPort port word := by
  simp only [performAll_eq, State.withPort]

theorem withPort_afterEvent (next : Nat) (rest : List Micro) (c : Byte) :
    (s.withPort port word).afterEvent next rest c = (s.afterEvent next rest c).withPort port word := by
  rw [State.afterEvent, State.afterEvent, withPort_performAll]
  split <;> rfl

theorem withPort_nextEvent (next : Nat) (c : Byte) (p : List Micro) :
    (s.withPort port word).nextEvent next c p = (s.nextEvent next c p).withPort port word := by
  induction p generalizing s with
  | nil => rfl
  | cons m ms ih =>
    simp only [State.nextEvent, withPort_perform, withPort_afterEvent, ih]
    split <;> rfl

/-- An event of a request in progress is the same whatever is at the port (R226). -/
theorem withPort_tick : (s.withPort port word).tick = s.tick.withPort port word := by
  cases hp : s.phase with
  | idle => simp only [State.tick, State.withPort, hp]
  | busy next rest c =>
    rw [tick_of_busy (s := s.withPort port word) hp, tick_of_busy hp, withPort_nextEvent]

end Port

/-- An event leaves the port and the latched head word as they are. -/
theorem tick_port (s : State) : s.tick.input = s.input ∧ s.tick.reqWord = s.reqWord := by
  have h : s.tick = s.tick.withPort s.input s.reqWord := withPort_tick s s.input s.reqWord
  rw [h]
  exact ⟨rfl, rfl⟩

/-- A busy block without a reset next at the port goes on by one event (R29). -/
theorem step_of_busy {s : State} {next : Nat} {rest : List Micro} {c : Byte} (hp : s.phase = .busy next rest c)
    (hu : runsUndisturbed s.input) : step s = .next s.tick := by
  rw [step_eq, State.fetch, hp]
  simp only [stateAfter, State.fetchBusy]
  split
  next k later hi => exact absurd hi (hu k later)
  next => rfl

/-- Settles O11: both steps are one event, which neither changes nor reads the port. -/
theorem busyBlockTakesNoWord : Obligations.BusyBlockTakesNoWord := by
  intro s next rest count words hp hu hwords
  obtain ⟨hinput, hword⟩ := tick_port s
  refine ⟨s.tick, step_of_busy hp hu, hinput, hword, ?_⟩
  calc step (s.withPort words s.reqWord)
      = .next (s.withPort words s.reqWord).tick := step_of_busy hp hwords
    _ = .next (s.tick.withPort words s.tick.reqWord) := by rw [withPort_tick, hword]

/-! ### An idle block without a whole request -/

theorem afterWords_map_word (ws : List Word) : afterWords (ws.map .word) = [] := by
  induction ws with
  | nil => rfl
  | cons w ws ih => exact ih

theorem portWords_map_word (ws : List Word) : portWords (ws.map .word) = ws := by
  simpa [portWords] using portWords_append ws []

/-- Words that are no request yet, with nothing the host does after them, leave an idle block waiting (R85, log 8). -/
theorem step_of_incomplete {s : State} {ws : List Word} (hp : s.phase = .idle) (hi : s.input = ws.map .word)
    (hd : decode ws = .error .noWord ∨ decode ws = .error .awaitExtension) : step s = .next s := by
  have hfetch : s.fetch = s.fetchIdle := by
    rw [State.fetch, hp, hi]
    cases ws <;> rfl
  have hawait : s.awaitWords = s := by rw [State.awaitWords, hi, afterWords_map_word]
  rw [step_eq, hfetch, State.fetchIdle, hi, portWords_map_word]
  obtain hd | hd := hd <;> simp only [hd, stateAfter, hawait]

/-- Settles O10: the words at the port are none, or a `CREATE` that lacks an extension word. -/
theorem idleBlockWaits : Obligations.IdleBlockWaits :=
  ⟨fun _ hp hi => step_of_incomplete (ws := []) hp hi (.inl rfl),
    fun _ w hp hop hi => step_of_incomplete (ws := [w]) hp hi (.inr (decode_create [] hop)),
    fun _ w x0 hp hop hi => step_of_incomplete (ws := [w, x0]) hp hi (.inr (decode_create [x0] hop))⟩

/-! ### Event counts -/

/-- The block accepts a request when it does not refuse it (R201). -/
theorem accepts_iff (r : Regs) (i : Instr) : r.accepts i = true ↔ refusalOf r i = none := by
  cases i <;> simp [Regs.accepts, refusalOf]

/-- Every event is a write or a wait (R2). -/
theorem length_eq_counts (es : List Event) : es.length = (countsOf es).1 + (countsOf es).2.1 := by
  induction es with
  | nil => rfl
  | cons e es ih => cases e <;> simp [countsOf, busBytes, waits] at ih ⊢ <;> omega

@[simp] theorem eventsSince_performAll (s : State) (p : List Micro) :
    s.eventsSince (s.performAll p) = eventsOf s.regs p := by
  simp [State.eventsSince, performAll_eq]

/-- `send` has the counts of its two nibbles, for every mode (R120). -/
theorem countsOf_send (r : Regs) (v m : Byte) : countsOf (eventsOf r (send v m)) = (8, 6, 84) := by
  rw [eventsOf_send_nibbles, countsOf_append, countsOf_nibbleTrace, countsOf_nibbleTrace]
  rfl

/-- Settles O48: an accepted request completes with the events of its lines, whose counts are its row of R236. -/
theorem eventCounts : Obligations.EventCounts := by
  refine ⟨fun i s haccepts => ?requests, fun s v m => ?micro_operations⟩
  case requests =>
    have hcounts := countsOf_requestLines s.regs i
    refine ⟨_, exec_of_accepted ((accepts_iff s.regs i).mp haccepts), rfl, ?_⟩
    rw [eventsSince_completed, length_eq_counts, hcounts]
    exact ⟨rfl, rfl⟩
  case micro_operations =>
    simp only [eventsSince_performAll]
    exact ⟨rfl, rfl, rfl, countsOf_send s.regs v m, countsOf_send s.regs v 0x00#8, countsOf_send s.regs v maskRS⟩

end Sys2Proof.Machine
